-- ==== Sys2Proof/Word.lean ====
section
/-! DEFINITION. The word types of the block: bytes of bus cells and pixels, 32-bit video words, bus
addresses and the 80-bit operation descriptor (spec/30_encoding.md R100, spec/20_memory.md R70 to R77). -/

namespace Sys2Proof

/-! ### The parameters that are widths (R5, R6), at their defaults -/

/-- `P_BUS_ADDR_W`: bits of a bus address. -/
abbrev Params.busAddrW : Nat := 16
/-- `P_OSC_W`: bits of the oscillator. -/
abbrev Params.oscW : Nat := 16
/-- `P_CYCLES_W`: bits of the `cycles` operand (decision D15). -/
abbrev Params.cyclesW : Nat := 8
/-- `P_VI_WORD_W`: bits of a video register word. -/
abbrev Params.viWordW : Nat := 32
/-- `P_FMT_W`: bits of the pixel format field. -/
abbrev Params.fmtW : Nat := 2
/-- `P_FRAMECNT_W`: bits of the frame-submission counter (decision D29). -/
abbrev Params.framecntW : Nat := 32

/-! ### Words -/

/-- A bus cell, a DRAM byte or a framebuffer byte (R71, R73, R74). -/
abbrev Byte := BitVec 8

/-- The `addr` or the `data` field of a descriptor, a video address or a video register word (R72, R100). -/
abbrev Word := BitVec 32

/-- A bus address (`P_BUS_ADDR_W`, R5). -/
abbrev BusAddr := BitVec Params.busAddrW

/-- The `cycles` operand of `T.UPDATE` (`P_CYCLES_W`, R102). -/
abbrev Cycles := BitVec Params.cyclesW

/-- The 16-bit cycle counter of the timer (`P_OSC_W`, R40). -/
abbrev Oscillator := BitVec Params.oscW

/-- An operation descriptor `OD` (R100): `op` 79:72, `aux` 71:64, `addr` 63:32, `data` 31:0. -/
abbrev Descriptor := BitVec 80

end Sys2Proof
end

