-- ==== Sys2Proof/Machine/Params.lean ====
section
/-! DEFINITION. The named parameters `P_*` of spec/00_scope.md R5 and R6 at the defaults the spec takes,
and the addresses of spec/30_encoding.md R110 and R112; the parameters that are widths of types are in
Word.lean. Log entry 8 says which of them rest on the spec's decisions and on its "general knowledge"
marks. -/

namespace Sys2Proof.Params

/-! ### Timer and bus cells (R5) -/

/-- `P_ADDR_DIV`. -/
def addrDiv : BusAddr := 0xFF04#16
/-- `P_ADDR_TIMA`. -/
def addrTima : BusAddr := 0xFF05#16
/-- `P_ADDR_TMA`. -/
def addrTma : BusAddr := 0xFF06#16
/-- `P_ADDR_TAC`. -/
def addrTac : BusAddr := 0xFF07#16
/-- `P_ADDR_IF`. -/
def addrIf : BusAddr := 0xFF0F#16

/-- `P_FREQ_DIV[0..3]`: cycles per TIMA increment (R5, R111). -/
def freqDiv (sel : BitVec 2) : Nat :=
  if sel = 0#2 then 1024 else if sel = 1#2 then 16 else if sel = 2#2 then 64 else 256

/-- `P_TIMER_IF_BIT`. -/
def timerIfBit : Nat := 2
/-- `P_IF_MASK`. -/
def ifMask : Byte := 0x1F#8
/-- `P_TAC_MASK`. -/
def tacMask : Byte := 0x07#8
/-- `P_IF_RAISE_NESTED` (decision D10): the literal reading, the two tests of step 1 side by side. -/
def ifRaiseNested : Bool := false
/-- The value `div_reset_index` takes at `POR` and `T.RESET`: R42 and R66 say 0; U9 suggests keeping it
a parameter, because the whole extra increment of R146 rests on it. -/
def divResetIndexReset : Int := 0

/-! ### Video interface (R6, R112) -/

/-- `P_VI_BASE`. -/
def viBase : Word := 0x04400000#32
/-- Address of CTRL (R112). -/
def viCtrl : Word := viBase + 0x00#32
/-- Address of ORIGIN (R112). -/
def viOrigin : Word := viBase + 0x04#32
/-- Address of WIDTH (R112). -/
def viWidth : Word := viBase + 0x08#32
/-- Address of V_INTR (R112). -/
def viVIntr : Word := viBase + 0x0C#32
/-- Address of V_CURRENT (R112). -/
def viVCurrent : Word := viBase + 0x10#32
/-- Address of BURST (R112). -/
def viBurst : Word := viBase + 0x14#32
/-- Address of V_SYNC (R112). -/
def viVSync : Word := viBase + 0x18#32
/-- Address of H_SYNC (R112). -/
def viHSync : Word := viBase + 0x1C#32
/-- Address of H_SYNC_LEAP (R112). -/
def viHSyncLeap : Word := viBase + 0x20#32
/-- Address of H_VIDEO (R112). -/
def viHVideo : Word := viBase + 0x24#32
/-- Address of V_VIDEO (R112). -/
def viVVideo : Word := viBase + 0x28#32
/-- Address of V_BURST (R112). -/
def viVBurst : Word := viBase + 0x2C#32
/-- Address of X_SCALE (R112). -/
def viXScale : Word := viBase + 0x30#32
/-- Address of Y_SCALE (R112). -/
def viYScale : Word := viBase + 0x34#32

/-- `P_CTRL_MASK`. -/
def ctrlMask : Word := 0x0001FFFF#32
/-- `P_FMT_LSB`; the field is `P_FMT_W` bits wide. -/
def fmtLsb : Nat := 0
/-- `P_FMT_DISABLED`. -/
def fmtDisabled : BitVec fmtW := 0#2
/-- `P_FMT_16`. -/
def fmt16 : BitVec fmtW := 2#2
/-- `P_FMT_32`. -/
def fmt32 : BitVec fmtW := 3#2
/-- `P_INTERLACE_BIT`: stored and read back, read by no rule (R50). -/
def interlaceBit : Nat := 6
/-- `P_ORIGIN_MASK`. -/
def originMask : Word := 0x00FFFFFF#32
/-- `P_WIDTH_MASK`. -/
def widthMask : Word := 0x00000FFF#32
/-- `P_VINTR_MASK`. -/
def vintrMask : Word := 0x000003FF#32
/-- `P_EXTENT_MASK`, one start or end field. -/
def extentMask : Word := 0x000003FF#32
/-- `P_SCALE_MASK`. -/
def scaleMask : Word := 0x00000FFF#32
/-- `P_SCALE_SHIFT`. -/
def scaleShift : Nat := 10
/-- `P_SCALE_NEUTRAL`. -/
def scaleNeutral : Nat := 1024
/-- `P_PIX16_BIG_ENDIAN`. -/
def pix16BigEndian : Bool := true
/-- `P_PIX16_R_LSB`. -/
def pix16RLsb : Nat := 11
/-- `P_PIX16_G_LSB`. -/
def pix16GLsb : Nat := 6
/-- `P_PIX16_B_LSB`. -/
def pix16BLsb : Nat := 1
/-- `P_ALPHA_OPAQUE`. -/
def alphaOpaque : Byte := 0xFF#8
/-- `P_FB_RESET_W`. -/
def fbResetW : Nat := 0
/-- `P_FB_RESET_H`. -/
def fbResetH : Nat := 0

/-! ### The host configuration the spec leaves open (D28), at the values the model's reset state gives it -/

/-- `P_DRAM_ATTACHED` in `State.reset`. DESIGN CHOICE, log entry 4. -/
def dramAttachedReset : Bool := true
/-- `P_DRAM_SIZE` in `State.reset`, in bytes: the range a 24-bit ORIGIN can name. DESIGN CHOICE, log
entry 4. -/
def dramSizeReset : Nat := 0x01000000
/-- What a DRAM byte nobody has written reads as. DESIGN CHOICE, log entry 5. -/
def dramUnlisted : Byte := 0x00#8

end Sys2Proof.Params
end

