-- ==== Sys2Proof/Syntax.lean ====
section
/-! DEFINITION. The operations of the block, one constructor per row of spec/opcode_table.json. The nine
operations of spec/30_encoding.md R101 split by the register their address selects (R104, R110, R112). -/

namespace Sys2Proof

/-- An operation the host issues (R9, R101). -/
inductive Instr where
  /-- `POR` (R270). -/
  | por
  /-- `T.RESET` (R130). -/
  | tReset
  /-- `T.UPDATE` (R131). -/
  | tUpdate (cycles : Cycles) (oldIf : Byte)
  /-- `BUS.RD8.DIV` (R152). -/
  | busRd8Div
  /-- `BUS.RD8.TIMA` (R153). -/
  | busRd8Tima
  /-- `BUS.RD8.TMA` (R154). -/
  | busRd8Tma
  /-- `BUS.RD8.TAC` (R155). -/
  | busRd8Tac
  /-- `BUS.RD8.IF` (R156). -/
  | busRd8If
  /-- `BUS.RD8.OTHER` (R162). -/
  | busRd8Other (a : BusAddr)
  /-- `BUS.WR8.DIV` (R157). -/
  | busWr8Div (v : Byte)
  /-- `BUS.WR8.TIMA` (R158). -/
  | busWr8Tima (v : Byte)
  /-- `BUS.WR8.TMA` (R159). -/
  | busWr8Tma (v : Byte)
  /-- `BUS.WR8.TAC` (R160). -/
  | busWr8Tac (v : Byte)
  /-- `BUS.WR8.IF` (R161). -/
  | busWr8If (v : Byte)
  /-- `BUS.WR8.OTHER` (R162). -/
  | busWr8Other (a : BusAddr) (v : Byte)
  /-- `VI.RD32.CTRL` (R173). -/
  | viRd32Ctrl
  /-- `VI.RD32.ORIGIN` (R175). -/
  | viRd32Origin
  /-- `VI.RD32.WIDTH` (R177). -/
  | viRd32Width
  /-- `VI.RD32.V_INTR` (R179). -/
  | viRd32VIntr
  /-- `VI.RD32.V_CURRENT` (R184). -/
  | viRd32VCurrent
  /-- `VI.RD32.BURST` (R194). -/
  | viRd32Burst
  /-- `VI.RD32.V_SYNC` (R194). -/
  | viRd32VSync
  /-- `VI.RD32.H_SYNC` (R194). -/
  | viRd32HSync
  /-- `VI.RD32.H_SYNC_LEAP` (R194). -/
  | viRd32HSyncLeap
  /-- `VI.RD32.H_VIDEO` (R186). -/
  | viRd32HVideo
  /-- `VI.RD32.V_VIDEO` (R188). -/
  | viRd32VVideo
  /-- `VI.RD32.V_BURST` (R194). -/
  | viRd32VBurst
  /-- `VI.RD32.X_SCALE` (R190). -/
  | viRd32XScale
  /-- `VI.RD32.Y_SCALE` (R192). -/
  | viRd32YScale
  /-- `VI.RD32.UNMAPPED` (R196). -/
  | viRd32Unmapped (a : Word)
  /-- `VI.WR32.CTRL` (R172). -/
  | viWr32Ctrl (v : Word)
  /-- `VI.WR32.ORIGIN` (R174). -/
  | viWr32Origin (v : Word)
  /-- `VI.WR32.WIDTH` (R176). -/
  | viWr32Width (v : Word)
  /-- `VI.WR32.V_INTR` (R178). -/
  | viWr32VIntr (v : Word)
  /-- `VI.WR32.V_CURRENT` (R183). -/
  | viWr32VCurrent (v : Word)
  /-- `VI.WR32.BURST` (R193). -/
  | viWr32Burst (v : Word)
  /-- `VI.WR32.V_SYNC` (R193). -/
  | viWr32VSync (v : Word)
  /-- `VI.WR32.H_SYNC` (R193). -/
  | viWr32HSync (v : Word)
  /-- `VI.WR32.H_SYNC_LEAP` (R193). -/
  | viWr32HSyncLeap (v : Word)
  /-- `VI.WR32.H_VIDEO` (R185). -/
  | viWr32HVideo (v : Word)
  /-- `VI.WR32.V_VIDEO` (R187). -/
  | viWr32VVideo (v : Word)
  /-- `VI.WR32.V_BURST` (R193). -/
  | viWr32VBurst (v : Word)
  /-- `VI.WR32.X_SCALE` (R189). -/
  | viWr32XScale (v : Word)
  /-- `VI.WR32.Y_SCALE` (R191). -/
  | viWr32YScale (v : Word)
  /-- `VI.WR32.UNMAPPED` (R195). -/
  | viWr32Unmapped (a : Word) (v : Word)
  /-- `VI.REDRAW` (R210). -/
  | viRedraw
  /-- `VI.VINT` (R197). -/
  | viVint
  deriving DecidableEq, Repr

end Sys2Proof
end

