-- ==== Sys2Proof/WellFormed.lean ====
section
/-! DEFINITION. Which terms of `Instr` stand for an operation. Operand widths are in the types; the only
checks left are those of the four catch-all rows, whose address must select no named register
(spec/30_encoding.md R104, R110, R112). -/

namespace Sys2Proof

/-- `a` is one of the five bus addresses of the block (R71, R110). -/
def busOwned (a : BusAddr) : Bool :=
  a == Params.addrDiv || a == Params.addrTima || a == Params.addrTma || a == Params.addrTac
    || a == Params.addrIf

/-- `a` is one of the fourteen video register addresses (R72, R112): all 32 bits are compared. -/
def viMapped (a : Word) : Bool :=
  a == Params.viCtrl || a == Params.viOrigin || a == Params.viWidth || a == Params.viVIntr
    || a == Params.viVCurrent || a == Params.viBurst || a == Params.viVSync || a == Params.viHSync
    || a == Params.viHSyncLeap || a == Params.viHVideo || a == Params.viVVideo || a == Params.viVBurst
    || a == Params.viXScale || a == Params.viYScale

/-- The operand checks of the operation set. -/
def wellFormed (i : Instr) : Bool :=
  match i with
  | .busRd8Other a => !busOwned a
  | .busWr8Other a _ => !busOwned a
  | .viRd32Unmapped a => !viMapped a
  | .viWr32Unmapped a _ => !viMapped a
  | .por | .tReset | .tUpdate _ _ => true
  | .busRd8Div | .busRd8Tima | .busRd8Tma | .busRd8Tac | .busRd8If => true
  | .busWr8Div _ | .busWr8Tima _ | .busWr8Tma _ | .busWr8Tac _ | .busWr8If _ => true
  | .viRd32Ctrl | .viRd32Origin | .viRd32Width | .viRd32VIntr | .viRd32VCurrent => true
  | .viRd32Burst | .viRd32VSync | .viRd32HSync | .viRd32HSyncLeap | .viRd32VBurst => true
  | .viRd32HVideo | .viRd32VVideo | .viRd32XScale | .viRd32YScale => true
  | .viWr32Ctrl _ | .viWr32Origin _ | .viWr32Width _ | .viWr32VIntr _ | .viWr32VCurrent _ => true
  | .viWr32Burst _ | .viWr32VSync _ | .viWr32HSync _ | .viWr32HSyncLeap _ | .viWr32VBurst _ => true
  | .viWr32HVideo _ | .viWr32VVideo _ | .viWr32XScale _ | .viWr32YScale _ => true
  | .viRedraw | .viVint => true

end Sys2Proof
end

