-- ==== Sys2Proof/Decode.lean ====
section
/-! DEFINITION. The operation descriptor (spec/30_encoding.md R100 to R104, R110, R112): its four fields, a
total decoder that rejects by name (R103), and the encoder, written from the same tables. -/

namespace Sys2Proof

/-- Why a descriptor is no operation (R103). -/
inductive DecodeError where
  /-- R103 (a): the operation code is none of R101. -/
  | illegalOp (op : Byte)
  /-- R103 (b): a must-be-zero field of a legal operation code is not zero. -/
  | reserved
  deriving DecidableEq, Repr

/-! ### Fields (R100) -/

/-- `OD[79:72]`. -/
def opField (od : Descriptor) : Byte := od.extractLsb' 72 8
/-- `OD[71:64]`. -/
def auxField (od : Descriptor) : Byte := od.extractLsb' 64 8
/-- `OD[63:32]`. -/
def addrField (od : Descriptor) : Word := od.extractLsb' 32 32
/-- `OD[31:0]`. -/
def dataField (od : Descriptor) : Word := od.extractLsb' 0 32

/-- The bus address in an `addr` field, its low `P_BUS_ADDR_W` bits (R102). -/
def busAddrOf (addr : Word) : BusAddr := addr.extractLsb' 0 Params.busAddrW
/-- The rest of the `addr` field of a bus operation, which must be zero (R103 (b)). -/
def aboveBusAddr (addr : Word) : BitVec (32 - Params.busAddrW) :=
  addr.extractLsb' Params.busAddrW (32 - Params.busAddrW)

/-- The descriptor with these four fields (R100). -/
def pack (op aux : Byte) (addr data : Word) : Descriptor := op ++ aux ++ addr ++ data

/-! ### The address selects the register (R104, R110, R112) -/

/-- `BUS.RD8 a`. -/
def busRead (a : BusAddr) : Instr :=
  if a = Params.addrDiv then .busRd8Div
  else if a = Params.addrTima then .busRd8Tima
  else if a = Params.addrTma then .busRd8Tma
  else if a = Params.addrTac then .busRd8Tac
  else if a = Params.addrIf then .busRd8If
  else .busRd8Other a

/-- `BUS.WR8 a, v`. -/
def busWrite (a : BusAddr) (v : Byte) : Instr :=
  if a = Params.addrDiv then .busWr8Div v
  else if a = Params.addrTima then .busWr8Tima v
  else if a = Params.addrTma then .busWr8Tma v
  else if a = Params.addrTac then .busWr8Tac v
  else if a = Params.addrIf then .busWr8If v
  else .busWr8Other a v

/-- `VI.RD32 a`. -/
def viRead (a : Word) : Instr :=
  if a = Params.viCtrl then .viRd32Ctrl
  else if a = Params.viOrigin then .viRd32Origin
  else if a = Params.viWidth then .viRd32Width
  else if a = Params.viVIntr then .viRd32VIntr
  else if a = Params.viVCurrent then .viRd32VCurrent
  else if a = Params.viBurst then .viRd32Burst
  else if a = Params.viVSync then .viRd32VSync
  else if a = Params.viHSync then .viRd32HSync
  else if a = Params.viHSyncLeap then .viRd32HSyncLeap
  else if a = Params.viHVideo then .viRd32HVideo
  else if a = Params.viVVideo then .viRd32VVideo
  else if a = Params.viVBurst then .viRd32VBurst
  else if a = Params.viXScale then .viRd32XScale
  else if a = Params.viYScale then .viRd32YScale
  else .viRd32Unmapped a

/-- `VI.WR32 a, v`. -/
def viWrite (a v : Word) : Instr :=
  if a = Params.viCtrl then .viWr32Ctrl v
  else if a = Params.viOrigin then .viWr32Origin v
  else if a = Params.viWidth then .viWr32Width v
  else if a = Params.viVIntr then .viWr32VIntr v
  else if a = Params.viVCurrent then .viWr32VCurrent v
  else if a = Params.viBurst then .viWr32Burst v
  else if a = Params.viVSync then .viWr32VSync v
  else if a = Params.viHSync then .viWr32HSync v
  else if a = Params.viHSyncLeap then .viWr32HSyncLeap v
  else if a = Params.viHVideo then .viWr32HVideo v
  else if a = Params.viVVideo then .viWr32VVideo v
  else if a = Params.viVBurst then .viWr32VBurst v
  else if a = Params.viXScale then .viWr32XScale v
  else if a = Params.viYScale then .viWr32YScale v
  else .viWr32Unmapped a v

/-! ### Decoding (R101 to R104) -/

/-- The operation, where the must-be-zero fields are zero; else reserved (R103 (b)). -/
def whenZero (fieldsZero : Prop) [Decidable fieldsZero] (i : Instr) : Except DecodeError Instr :=
  if fieldsZero then .ok i else .error .reserved

/-- The operation a descriptor stands for. Total: every descriptor decodes or is rejected by name. -/
def decode (od : Descriptor) : Except DecodeError Instr :=
  let op := opField od
  let aux := auxField od
  let addr := addrField od
  let data := dataField od
  if op = 0x00#8 then whenZero (aux = 0#8 ∧ addr = 0#32 ∧ data = 0#32) .por
  else if op = 0x01#8 then whenZero (aux = 0#8 ∧ addr = 0#32 ∧ data = 0#32) .tReset
  else if op = 0x02#8 then
    whenZero (addr = 0#32 ∧ data.extractLsb' 8 24 = 0#24) (.tUpdate (aux.setWidth Params.cyclesW) (data.extractLsb' 0 8))
  else if op = 0x10#8 then
    whenZero (aux = 0#8 ∧ aboveBusAddr addr = 0 ∧ data = 0#32) (busRead (busAddrOf addr))
  else if op = 0x11#8 then
    whenZero (aux = 0#8 ∧ aboveBusAddr addr = 0 ∧ data.extractLsb' 8 24 = 0#24)
      (busWrite (busAddrOf addr) (data.extractLsb' 0 8))
  else if op = 0x20#8 then whenZero (aux = 0#8 ∧ data = 0#32) (viRead addr)
  else if op = 0x21#8 then whenZero (aux = 0#8) (viWrite addr data)
  else if op = 0x22#8 then whenZero (aux = 0#8 ∧ addr = 0#32 ∧ data = 0#32) .viRedraw
  else if op = 0x23#8 then whenZero (aux = 0#8 ∧ addr = 0#32 ∧ data = 0#32) .viVint
  else .error (.illegalOp op)

/-- The descriptor whose bits are the low `nbits` bits of `w`, bit 0 the least significant bit of `data`,
as spec/opcode_table.json numbers them; none where they do not fit in 80 bits. -/
def tableWord (nbits w : Nat) : Option Descriptor :=
  if w % 2 ^ nbits < 2 ^ 80 then some (BitVec.ofNat 80 (w % 2 ^ nbits)) else none

/-- What the decoder reads from a word of the opcode table. -/
def decodeTableWord (nbits w : Nat) : Option Instr :=
  match tableWord nbits w with
  | some od => (decode od).toOption
  | none => none

/-! ### Encoding -/

/-- The descriptor of an operation that has no operand but its code (R100). -/
def encodePlain (op : Byte) : Descriptor := pack op 0#8 0#32 0#32

/-- `BUS.RD8 a` (R101). -/
def encodeBusRead (a : BusAddr) : Descriptor := pack 0x10#8 0#8 (a.setWidth 32) 0#32
/-- `BUS.WR8 a, v` (R101). -/
def encodeBusWrite (a : BusAddr) (v : Byte) : Descriptor :=
  pack 0x11#8 0#8 (a.setWidth 32) (v.setWidth 32)
/-- `VI.RD32 a` (R101). -/
def encodeViRead (a : Word) : Descriptor := pack 0x20#8 0#8 a 0#32
/-- `VI.WR32 a, v` (R101). -/
def encodeViWrite (a v : Word) : Descriptor := pack 0x21#8 0#8 a v

/-- The descriptor of a well-formed operation (R100, R101, R110, R112). -/
def encode (i : Instr) : Descriptor :=
  match i with
  | .por => encodePlain 0x00#8
  | .tReset => encodePlain 0x01#8
  | .tUpdate cycles oldIf => pack 0x02#8 (cycles.setWidth 8) 0#32 (oldIf.setWidth 32)
  | .busRd8Div => encodeBusRead Params.addrDiv
  | .busRd8Tima => encodeBusRead Params.addrTima
  | .busRd8Tma => encodeBusRead Params.addrTma
  | .busRd8Tac => encodeBusRead Params.addrTac
  | .busRd8If => encodeBusRead Params.addrIf
  | .busRd8Other a => encodeBusRead a
  | .busWr8Div v => encodeBusWrite Params.addrDiv v
  | .busWr8Tima v => encodeBusWrite Params.addrTima v
  | .busWr8Tma v => encodeBusWrite Params.addrTma v
  | .busWr8Tac v => encodeBusWrite Params.addrTac v
  | .busWr8If v => encodeBusWrite Params.addrIf v
  | .busWr8Other a v => encodeBusWrite a v
  | .viRd32Ctrl => encodeViRead Params.viCtrl
  | .viRd32Origin => encodeViRead Params.viOrigin
  | .viRd32Width => encodeViRead Params.viWidth
  | .viRd32VIntr => encodeViRead Params.viVIntr
  | .viRd32VCurrent => encodeViRead Params.viVCurrent
  | .viRd32Burst => encodeViRead Params.viBurst
  | .viRd32VSync => encodeViRead Params.viVSync
  | .viRd32HSync => encodeViRead Params.viHSync
  | .viRd32HSyncLeap => encodeViRead Params.viHSyncLeap
  | .viRd32HVideo => encodeViRead Params.viHVideo
  | .viRd32VVideo => encodeViRead Params.viVVideo
  | .viRd32VBurst => encodeViRead Params.viVBurst
  | .viRd32XScale => encodeViRead Params.viXScale
  | .viRd32YScale => encodeViRead Params.viYScale
  | .viRd32Unmapped a => encodeViRead a
  | .viWr32Ctrl v => encodeViWrite Params.viCtrl v
  | .viWr32Origin v => encodeViWrite Params.viOrigin v
  | .viWr32Width v => encodeViWrite Params.viWidth v
  | .viWr32VIntr v => encodeViWrite Params.viVIntr v
  | .viWr32VCurrent v => encodeViWrite Params.viVCurrent v
  | .viWr32Burst v => encodeViWrite Params.viBurst v
  | .viWr32VSync v => encodeViWrite Params.viVSync v
  | .viWr32HSync v => encodeViWrite Params.viHSync v
  | .viWr32HSyncLeap v => encodeViWrite Params.viHSyncLeap v
  | .viWr32HVideo v => encodeViWrite Params.viHVideo v
  | .viWr32VVideo v => encodeViWrite Params.viVVideo v
  | .viWr32VBurst v => encodeViWrite Params.viVBurst v
  | .viWr32XScale v => encodeViWrite Params.viXScale v
  | .viWr32YScale v => encodeViWrite Params.viYScale v
  | .viWr32Unmapped a v => encodeViWrite a v
  | .viRedraw => encodePlain 0x22#8
  | .viVint => encodePlain 0x23#8

end Sys2Proof
end

