-- ==== Sys2Proof/Config.lean ====
section
/-! DEFINITION. The values the spec leaves open for every implementation, as constants without a body:
nothing proved of the model can depend on which value they have. The parameters that have a default
value in the spec are in Sys2Proof/Machine/Params.lean. -/

namespace Sys2Proof

/-- The open part of `P_TAC_GLITCH` (R149, decision D11, gap N7): the arguments are the old divisor,
the new enable, the new divisor, the phase counter and the reset index. The model consults it through
`Machine.tacGlitch`, which adds the one property the spec requires. Log entry 7. -/
opaque Config.tacGlitchOpen : Nat → Bool → Nat → Nat → Int → Bool

/-- `v_current_in` (R184, decision D20): the current scanline the environment presents at the n-th
read of V_CURRENT. Log entry 6. -/
opaque Config.vCurrentIn : Nat → BitVec 10

end Sys2Proof
end

