-- ==== Sys2Proof/Machine/Devices.lean ====
section
/-! DEFINITION. The records State is made of: the timer with its bus cells, the video interface, the
environment the spec names as input, and the host's side. The complete list of state is
spec/10_state.md R23; every field cites its rule. Beside them, the value `POR` leaves in each device
(R66, R270). -/

namespace Sys2Proof.Machine

/-- `TMR` and the five bus cells and two signals it shares with the host. -/
structure Timer where
  /-- `DIV` (R30). -/
  div : Byte
  /-- `TAC` (R31), bits 2:0 stored. -/
  tac : Byte
  /-- `TIMA` (R32). -/
  tima : Byte
  /-- `TMA` (R33). -/
  tma : Byte
  /-- `IF` (R34), stored under `P_IF_MASK`. -/
  ifReg : Byte
  /-- `DIVReset` (R35). -/
  divReset : Bool
  /-- `TACChanged` (R36). -/
  tacChanged : Bool
  /-- `oscillator` (R40). -/
  oscillator : Oscillator
  /-- `timer_counter` (R41): unbounded. -/
  timerCounter : Nat
  /-- `div_reset_index` (R42): -1 is the sentinel. -/
  divResetIndex : Int
  /-- `old_tac` (R43). -/
  oldTac : Byte
  /-- `tima_overflow` (R44): true is PendingOverflowReload. -/
  timaOverflow : Bool
  deriving DecidableEq, Repr

/-- `VI`. -/
structure Video where
  /-- `ctrl` (R50), stored under `P_CTRL_MASK`. -/
  ctrl : BitVec Params.viWordW
  /-- `origin` (R51). -/
  origin : BitVec 24
  /-- `src_bound` (R51). -/
  srcBound : Bool
  /-- `vi_width` (R52). -/
  viWidth : BitVec 12
  /-- `v_intr` (R53). -/
  vIntr : BitVec 10
  /-- `h_start` (R54). -/
  hStart : BitVec 10
  /-- `h_end` (R54). -/
  hEnd : BitVec 10
  /-- `v_start` (R55). -/
  vStart : BitVec 10
  /-- `v_end` (R55). -/
  vEnd : BitVec 10
  /-- `x_scale` (R56). -/
  xScale : BitVec 12
  /-- `y_scale` (R56). -/
  yScale : BitVec 12
  /-- `out_width` (R57). -/
  outWidth : Nat
  /-- `out_height` (R57). -/
  outHeight : Nat
  /-- `fb_w` (R58). -/
  fbW : Nat
  /-- `fb_h` (R58). -/
  fbH : Nat
  /-- `fb` (R58): byte i of the framebuffer is element i. -/
  fb : List Byte
  /-- `blacked_out` (R59). -/
  blackedOut : Bool
  /-- `vi_irq_pending` (R60). -/
  viIrqPending : Bool
  /-- `frame_count` (R61). -/
  frameCount : BitVec Params.framecntW
  deriving DecidableEq, Repr

/-- Sparse byte memory: offsets strictly rising, no entry equal to what an unlisted offset reads as. -/
abbrev Memory := List Host.Cell

/-- The configuration and the input memory the block uses and never writes (R6, R73, R89). -/
structure Environment where
  /-- `P_DRAM_ATTACHED` (R6, D28): fixed during a run (R273 (2)). -/
  dramAttached : Bool
  /-- `P_DRAM_SIZE` (R6, D28), in bytes: fixed during a run (R273 (2)). -/
  dramSize : Nat
  /-- The contents of the DRAM source space (R73). -/
  dram : Memory
  deriving DecidableEq, Repr

/-- What an operation returns (the result column of R101). The model's own type, log entry 1. -/
inductive OpResult where
  /-- No result. -/
  | none
  /-- `irq` of `T.UPDATE` (R243). -/
  | irq (fired : Bool)
  /-- The byte of `BUS.RD8`. -/
  | byte (v : Byte)
  /-- The word and the `diag` bit of `VI.RD32` (R170, R241). -/
  | word (v : BitVec Params.viWordW) (diag : Bool)
  /-- The `diag` bit of `VI.WR32` (R171, R241). -/
  | diag (d : Bool)
  /-- The Boolean of `VI.REDRAW` (R210). -/
  | redraw (ok : Bool)
  deriving DecidableEq, Repr

/-- What the outside world does next (R85, R89). The model's own type, log entry 2. -/
inductive HostEvent where
  /-- The host issues an operation by its descriptor (R9, R100). -/
  | issue (od : Descriptor)
  /-- The rest of the machine writes one DRAM byte between two operations (R89). -/
  | dramStore (offset : Nat) (value : Byte)
  deriving DecidableEq, Repr

/-- The model's own fields: what has been issued and what has been returned. -/
structure HostSide where
  /-- A `POR` has been issued (R273 (1)). Log entry 3. -/
  porDone : Bool
  /-- The result of the last operation done. Log entry 1. -/
  result : OpResult
  /-- How many reads of V_CURRENT have been answered, the argument of `Config.vCurrentIn`. Log entry 6. -/
  draws : Nat
  /-- The events not yet taken, the next one first. Log entry 2. -/
  inbox : List HostEvent
  deriving DecidableEq, Repr

/-- The timer after `POR` (R66, R270; decision D16). -/
def timerAfterPor : Timer where
  div := 0
  tac := 0
  tima := 0
  tma := 0
  ifReg := 0
  divReset := false
  tacChanged := false
  oscillator := 0
  timerCounter := 0
  divResetIndex := Params.divResetIndexReset
  oldTac := 0
  timaOverflow := false

/-- The video interface after `POR` (R66, R270; decision D27). -/
def videoAfterPor : Video where
  ctrl := 0
  origin := 0
  srcBound := false
  viWidth := 0
  vIntr := 0
  hStart := 0
  hEnd := 0
  vStart := 0
  vEnd := 0
  xScale := 0
  yScale := 0
  outWidth := 0
  outHeight := 0
  fbW := Params.fbResetW
  fbH := Params.fbResetH
  fb := List.replicate (Params.fbResetW * Params.fbResetH * 4) 0
  blackedOut := true
  viIrqPending := false
  frameCount := 0

end Sys2Proof.Machine
end

