-- ==== Sys2Proof/Machine/State.lean ====
section
/-! DEFINITION. The state of the machine, the reasons a step can stop, and the state right after `POR`
(spec/10_state.md R23, R66; spec/70_reset_and_hazards.md R270). -/

namespace Sys2Proof.Machine

/-- Everything the spec gives the block (`tmr`, `vi`), the inputs it names (`env`), and the model's own
fields (`host`). -/
structure State where
  tmr : Timer
  vi : Video
  env : Environment
  host : HostSide
  deriving DecidableEq, Repr

/-- Faults. No operation faults (R9): the one constructor is raised by `step` alone, for an event of the
environment. -/
inductive Fault where
  /-- The rest of the machine stores to a DRAM offset that does not exist (R73: offsets are
  `0 .. P_DRAM_SIZE - 1`, and only when DRAM is attached). Raised by `environmentStore`. Safe: the model
  stops where the block itself would not be concerned. Log entry 5. -/
  | dramOffsetAbsent (offset : Nat)
  deriving DecidableEq, Repr

/-- Refusals: the spec gives no meaning (R9). -/
inductive Refusal where
  /-- An instruction with no meaning yet. Raised by no arm. Safe. -/
  | notModelled (mnemonic : String)
  /-- R103 (a): no operation has this code. Raised by `step`. Safe. -/
  | illegalOperation (op : Byte)
  /-- R103 (b): a must-be-zero field is not zero. Raised by `step`. Safe. -/
  | reservedDescriptor
  /-- R273 (1): an operation before the first `POR`. Raised by every meaning but `POR`'s. Safe. -/
  | beforePor
  /-- R162: a bus address that is not the block's. Raised by `BUS.RD8.OTHER` and `BUS.WR8.OTHER`. Safe. -/
  | busAddressNotOwned (a : BusAddr)
  /-- R223: `h_end < h_start` or `v_end < v_start`. Raised by `VI.REDRAW`. Safe. -/
  | extentsReversed
  /-- R78, R222: the source window of a redraw leaves DRAM. Raised by `VI.REDRAW`. Safe. -/
  | sourceOutsideDram
  deriving DecidableEq, Repr

/-- The outcome of an operation (R9): done or refused, and for a step also the environment's fault. -/
abbrev Answer := Host.Outcome State Fault Refusal

/-- The machine right after `POR`: both devices as R66 says, the environment's open configuration and
contents at the values of log entries 4 and 5, nothing issued (log entry 2). -/
def State.reset : State where
  tmr := timerAfterPor
  vi := videoAfterPor
  env := { dramAttached := Params.dramAttachedReset, dramSize := Params.dramSizeReset, dram := [] }
  host := { porDone := true, result := .none, draws := 0, inbox := [] }

end Sys2Proof.Machine
end

