-- ==== Sys2Proof/Machine/Operands.lean ====
section
/-! DEFINITION. Operand forms: how a written value becomes register fields, how fields become a read value,
and the layouts of spec/30_encoding.md R111 and R113 to R119. -/

namespace Sys2Proof.Machine

/-! ### TAC (R111) -/

/-- `EN`, `TAC[2]`. -/
def tacEnabled (tac : Byte) : Bool := tac.getLsbD 2
/-- `SEL`, `TAC[1:0]`. -/
def tacSelect (tac : Byte) : BitVec 2 := tac.extractLsb' 0 2
/-- The divisor a TAC value selects: `P_FREQ_DIV[TAC[1:0]]` (R111, R142). -/
def tacDivisor (tac : Byte) : Nat := Params.freqDiv (tacSelect tac)

/-! ### Masks on storage (R113 to R117: "always masked to their valid bit-width before storage") -/

/-- What a write of TAC stores (R160). -/
def tacStored (v : Byte) : Byte := v &&& Params.tacMask
/-- What a write of IF stores (R161). -/
def ifStored (v : Byte) : Byte := v &&& Params.ifMask
/-- What a write of CTRL stores (R172). -/
def ctrlStored (v : Word) : Word := v &&& Params.ctrlMask
/-- What a write of ORIGIN stores (R174, R80). -/
def originStored (v : Word) : BitVec 24 := (v &&& Params.originMask).setWidth 24
/-- What a write of WIDTH stores (R176). -/
def widthStored (v : Word) : BitVec 12 := (v &&& Params.widthMask).setWidth 12
/-- What a write of V_INTR stores (R178). -/
def vintrStored (v : Word) : BitVec 10 := (v &&& Params.vintrMask).setWidth 10
/-- What a write of X_SCALE or Y_SCALE stores (R189, R191). -/
def scaleStored (v : Word) : BitVec 12 := (v &&& Params.scaleMask).setWidth 12

/-! ### Extents (R114) -/

/-- The `start` field of a written extent, bits 25:16. -/
def extentStart (v : Word) : BitVec 10 := ((v >>> 16) &&& Params.extentMask).setWidth 10
/-- The `end` field of a written extent, bits 9:0. -/
def extentEnd (v : Word) : BitVec 10 := (v &&& Params.extentMask).setWidth 10
/-- `end | (start << 16)`. -/
def extentWord (start stop : BitVec 10) : Word := stop.setWidth 32 ||| (start.setWidth 32 <<< 16)

/-! ### Pixels (R50, R113, R118) -/

/-- The four codes of the pixel format (R113). -/
inductive PixelFormat where
  /-- "the disabled encoding". -/
  | disabled
  /-- "any other format value". -/
  | other
  /-- "16-bit-per-pixel mode (5-5-5-1)". -/
  | rgb16
  /-- "32-bit-per-pixel mode". -/
  | rgba32
  deriving DecidableEq, Repr

/-- The `FMT` field of CTRL (R50, R113). -/
def pixelFormat (ctrl : Word) : PixelFormat :=
  let f : BitVec Params.fmtW := ctrl.extractLsb' Params.fmtLsb Params.fmtW
  if f = Params.fmtDisabled then .disabled
  else if f = Params.fmt16 then .rgb16
  else if f = Params.fmt32 then .rgba32
  else .other

/-- The 16-bit pixel two DRAM bytes make, `b0` at the lower offset (R75 (d), R118). -/
def pixel16 (b0 b1 : Byte) : BitVec 16 := if Params.pix16BigEndian then b0 ++ b1 else b1 ++ b0

/-- `exp5(c) = (c << 3) | (c >> 2)` (R216). -/
def exp5 (c : BitVec 5) : Byte := (c.setWidth 8 <<< 3) ||| (c.setWidth 8 >>> 2)

/-- The framebuffer bytes R, G, B, A of a 16-bit pixel (R118, R120, R216). -/
def rgbaOf16 (pix : BitVec 16) : List Byte :=
  [exp5 (pix.extractLsb' Params.pix16RLsb 5), exp5 (pix.extractLsb' Params.pix16GLsb 5),
    exp5 (pix.extractLsb' Params.pix16BLsb 5), Params.alphaOpaque]

/-- The scale factor a redraw uses: the neutral value for a stored 0 (R56, R211). -/
def effectiveScale (scale : BitVec 12) : Nat :=
  if scale = 0#12 then Params.scaleNeutral else scale.toNat

end Sys2Proof.Machine
end

