-- ==== Sys2Proof/Machine/Flags.lean ====
section
/-! DEFINITION. What decides and computes the one-bit flags and requests of spec/10_state.md R63: the TAC
glitch predicate, the silent increment, the raising of the two interrupt requests, the blacked-out test.
The block has no arithmetic condition codes (R63). -/

namespace Sys2Proof.Machine

/-- The arguments of `P_TAC_GLITCH` in the order of R149: old divisor, new enable, new divisor, phase
counter, reset index. -/
abbrev TacGlitch := Nat → Bool → Nat → Nat → Int → Bool

/-- `sel(d, phase)` of R149: the phase bit a divisor selects is high. -/
def phaseBit (d phase : Nat) : Bool := decide (d / 2 ≤ phase % d)

/-- The spec's default instantiation of `P_TAC_GLITCH` (R149): the old selected bit high, the new one,
gated by the new enable, low. The machine does not use it; tests do. -/
def tacGlitchDefault : TacGlitch := fun oldDiv newEn newDiv phase _ =>
  phaseBit oldDiv phase && !(newEn && phaseBit newDiv phase)

/-- The glitch predicate of the machine: open (R149), but for the property every instantiation has, that
a write which changes neither enable nor divisor glitches nothing. Log entry 7. -/
def tacGlitch : TacGlitch := fun oldDiv newEn newDiv phase ridx =>
  if newEn && (newDiv == oldDiv) then false
  else Config.tacGlitchOpen oldDiv newEn newDiv phase ridx

/-- The increment of TIMA in steps 3, 4 and 6: modulo 256, no flag and no request (R150, decision D13). -/
def bumpTima (t : Timer) : Timer := { t with tima := t.tima + 1 }

/-- The timer raises its request in IF (R141, R244): the only bit of IF the block ever sets. -/
def raiseTimerRequest (t : Timer) : Timer :=
  { t with ifReg := t.ifReg ||| (1#8 <<< Params.timerIfBit) }

/-- The vertical interrupt condition becomes pending (R197, R246). -/
def raiseVertical (v : Video) : Video := { v with viIrqPending := true }

/-- The vertical interrupt condition is cleared (R183, R246). -/
def clearVertical (v : Video) : Video := { v with viIrqPending := false }

/-- `blackout_condition(fmt)` on the dimensions just computed (R212). -/
def blackoutCondition (v : Video) : Bool :=
  v.outWidth == 0 || v.outHeight == 0 || !v.srcBound || pixelFormat v.ctrl == .disabled

end Sys2Proof.Machine
end

