-- ==== Sys2Proof/Machine/Ops.lean ====
section
/-! DEFINITION. The named operations every meaning is built from: DRAM as the sparse memory of the
environment (spec/20_memory.md R73, R78), the answer of an operation (spec/00_scope.md R9, R101), the
refusal before `POR` (spec/70_reset_and_hazards.md R273), and the host's events (R85, R89). The block takes
no traps and returns from none (spec/60_exceptions.md R249, R250): there is no exception entry here; the two
interrupt requests it makes are raised in Machine/Flags.lean. -/

namespace Sys2Proof.Machine

/-! ### Memory -/

/-- Reads one byte; an unlisted offset reads `Params.dramUnlisted` (log entry 5). -/
def Memory.read (m : Memory) (a : Nat) : Byte :=
  match m with
  | [] => Params.dramUnlisted
  | (k, b) :: rest => if k = a then b else Memory.read rest a

/-- An entry in front of a canonical memory, left out where it says what an unlisted offset reads as. -/
def Memory.put (a : Nat) (b : Byte) (rest : Memory) : Memory :=
  if b = Params.dramUnlisted then rest else (a, b) :: rest

/-- Writes one byte and keeps the canonical form. -/
def Memory.write (m : Memory) (a : Nat) (b : Byte) : Memory :=
  match m with
  | [] => Memory.put a b []
  | (k, c) :: rest =>
    if a < k then Memory.put a b ((k, c) :: rest)
    else if a = k then Memory.put a b rest
    else (k, c) :: Memory.write rest a b

/-- The canonical form above a bound: offsets strictly rising from `lo`, no entry an unlisted offset would
read as anyway. -/
def Memory.wfFrom (lo : Nat) (m : Memory) : Bool :=
  match m with
  | [] => true
  | (k, b) :: rest => decide (lo ≤ k) && b != Params.dramUnlisted && Memory.wfFrom (k + 1) rest

/-- The canonical form. -/
def Memory.wf (m : Memory) : Bool := Memory.wfFrom 0 m

/-- `MemRead(addr, n)` is defined (R8, R78). -/
def memReadable (e : Environment) (addr n : Nat) : Bool :=
  e.dramAttached && decide (addr + n ≤ e.dramSize)

/-- `MemRead(addr, n)`: n bytes, lowest address first (R8). -/
def memRead (e : Environment) (addr n : Nat) : List Byte :=
  (List.range n).map fun k => Memory.read e.dram (addr + k)

/-! ### Answers -/

/-- The operation returns `r`. -/
def State.answer (s : State) (r : OpResult) : State := { s with host := { s.host with result := r } }

/-- The state with this timer. -/
def State.withTimer (s : State) (t : Timer) : State := { s with tmr := t }

/-- The state with this video interface. -/
def State.withVideo (s : State) (v : Video) : State := { s with vi := v }

/-- The operation is refused unless a `POR` has been issued (R273 (1), D32). -/
def afterPor (s : State) (k : Answer) : Answer :=
  if s.host.porDone then k else .refused .beforePor

/-- Done: the timer becomes `t`, the result is `r`; nothing else changes. -/
def doneTimer (s : State) (t : Timer) (r : OpResult) : Answer :=
  afterPor s (.next ((s.withTimer t).answer r))

/-- Done: the video interface becomes `v`, the result is `r`; nothing else changes. -/
def doneVideo (s : State) (v : Video) (r : OpResult) : Answer :=
  afterPor s (.next ((s.withVideo v).answer r))

/-- Done: the result is `r` and no state of the block changes (R77). -/
def doneRead (s : State) (r : OpResult) : Answer :=
  afterPor s (.next (s.answer r))

/-- The environment's next draw of the current scanline (R184), and the state that has used it. -/
def drawScanline (s : State) : BitVec 10 × State :=
  (Config.vCurrentIn s.host.draws, { s with host := { s.host with draws := s.host.draws + 1 } })

/-! ### Events of the outside world -/

/-- The state in which the event at the head of the inbox has been taken. -/
def State.taken (s : State) : State := { s with host := { s.host with inbox := s.host.inbox.tail } }

/-- The state in which this event comes before every other. -/
def State.issuedFirst (s : State) (ev : HostEvent) : State :=
  { s with host := { s.host with inbox := ev :: s.host.inbox } }

/-- The rest of the machine writes one DRAM byte (R73, R89). -/
def environmentStore (s : State) (offset : Nat) (value : Byte) : Answer :=
  if memReadable s.env offset 1 then
    .next { s with env := { s.env with dram := Memory.write s.env.dram offset value } }
  else .fault (.dramOffsetAbsent offset)

/-- The refusal a rejected descriptor gets (R103). -/
def refusalOf (e : DecodeError) : Refusal :=
  match e with
  | .illegalOp op => .illegalOperation op
  | .reserved => .reservedDescriptor

/-- What happens with an event, given what operations do: an issued descriptor is decoded and its
operation done (R104), a DRAM store reaches DRAM. -/
def handleEvent (run : Instr → State → Answer) (s : State) (ev : HostEvent) : Answer :=
  match ev with
  | .issue od =>
    match decode od with
    | .ok i => run i s
    | .error e => .refused (refusalOf e)
  | .dramStore offset value => environmentStore s offset value

/-- One turn of the machine: the next event, or nothing where the host issues none (R258 (b), R259). -/
def takeTurn (run : Instr → State → Answer) (s : State) : Answer :=
  match s.host.inbox with
  | [] => .next s
  | ev :: _ => handleEvent run s.taken ev

/-- The state in which the host's next event is the descriptor of an opcode-table word; unchanged where
the word is wider than a descriptor. -/
def issueTableWord (s : State) (nbits w : Nat) : State :=
  match tableWord nbits w with
  | some od => s.issuedFirst (.issue od)
  | none => s

end Sys2Proof.Machine
end

