-- ==== Sys2Proof/Machine/BusRead.lean ====
section
/-! DEFINITION. `BUS.RD8` (spec/40_timer.md R152 to R156, R162): reads have no side effects (R77). -/

namespace Sys2Proof.Machine

/-- `BUS.RD8 DIV` (R152). -/
def execBusRd8Div (s : State) : Answer := doneRead s (.byte s.tmr.div)
/-- `BUS.RD8 TIMA` (R153). -/
def execBusRd8Tima (s : State) : Answer := doneRead s (.byte s.tmr.tima)
/-- `BUS.RD8 TMA` (R154). -/
def execBusRd8Tma (s : State) : Answer := doneRead s (.byte s.tmr.tma)
/-- `BUS.RD8 TAC` (R155). -/
def execBusRd8Tac (s : State) : Answer := doneRead s (.byte s.tmr.tac)
/-- `BUS.RD8 IF` (R156). -/
def execBusRd8If (s : State) : Answer := doneRead s (.byte s.tmr.ifReg)
/-- `BUS.RD8 a` with `a` not one of the block's five addresses: refused by a model of this block alone
(R162, U11). Log entry 10. -/
def execBusRd8Other (a : BusAddr) (s : State) : Answer := afterPor s (.refused (.busAddressNotOwned a))

end Sys2Proof.Machine
end

