-- ==== Sys2Proof/Machine/BusWrite.lean ====
section
/-! DEFINITION. `BUS.WR8` (spec/40_timer.md R157 to R161, R162). -/

namespace Sys2Proof.Machine

/-- `BUS.WR8 DIV, v` (R157, decision D6): the data is discarded, the signal is raised. -/
def execBusWr8Div (_ : Byte) (s : State) : Answer := doneTimer s { s.tmr with divReset := true } .none
/-- `BUS.WR8 TIMA, v` (R158). -/
def execBusWr8Tima (v : Byte) (s : State) : Answer := doneTimer s { s.tmr with tima := v } .none
/-- `BUS.WR8 TMA, v` (R159). -/
def execBusWr8Tma (v : Byte) (s : State) : Answer := doneTimer s { s.tmr with tma := v } .none
/-- `BUS.WR8 TAC, v` (R160): the signal is raised on every write (decision D7). -/
def execBusWr8Tac (v : Byte) (s : State) : Answer :=
  doneTimer s { s.tmr with tac := tacStored v, tacChanged := true } .none
/-- `BUS.WR8 IF, v` (R161). -/
def execBusWr8If (v : Byte) (s : State) : Answer := doneTimer s { s.tmr with ifReg := ifStored v } .none
/-- `BUS.WR8 a, v` with `a` not one of the block's five addresses: refused by a model of this block alone
(R162, U11). Log entry 10. -/
def execBusWr8Other (a : BusAddr) (_ : Byte) (s : State) : Answer :=
  afterPor s (.refused (.busAddressNotOwned a))

end Sys2Proof.Machine
end

