-- ==== Sys2Proof/Machine/TimerSteps.lean ====
section
/-! DEFINITION. The steps of `T.UPDATE` (spec/40_timer.md R141 to R149) and the timer reset (R130), each a
function of the timer alone. -/

namespace Sys2Proof.Machine

/-- `Reset()` (R130): IF and the two signals stay (decision D16). -/
def timerReset (t : Timer) : Timer :=
  { t with
    div := 0, tac := 0, tima := 0, tma := 0, oscillator := 0, timerCounter := 0,
    divResetIndex := Params.divResetIndexReset, oldTac := 0, timaOverflow := false }

/-- Step 1, the pending reload (R141). `nested` is `P_IF_RAISE_NESTED` (decision D10). -/
def step1PendingReload (nested : Bool) (oldIf : Byte) (t : Timer) : Timer :=
  if t.timaOverflow then
    let reload := t.tima == 0#8
    let loaded := if reload then { t with tima := t.tma } else t
    let raised :=
      if (!nested || reload) && loaded.ifReg == oldIf then raiseTimerRequest loaded else loaded
    { raised with timaOverflow := false }
  else t

/-- Step 3, the divider reset (R143); the comparison is signed, so the sentinel -1 never reaches it. -/
def step3DivReset (div : Nat) (t : Timer) : Timer :=
  if t.divReset then
    let bumped := if t.divResetIndex ≥ ((div / 2 : Nat) : Int) then bumpTima t else t
    { bumped with divReset := false, oscillator := 0, timerCounter := 0, divResetIndex := 0 }
  else t

/-- Step 4, the TAC change (R144): the previous state is `old_tac`, the new divisor is step 2's. -/
def step4TacChanged (glitch : TacGlitch) (div : Nat) (t : Timer) : Timer :=
  if t.tacChanged then
    let hit := tacEnabled t.oldTac &&
      glitch (tacDivisor t.oldTac) (tacEnabled t.tac) div t.timerCounter t.divResetIndex
    let bumped := if hit then bumpTima t else t
    { bumped with tacChanged := false }
  else t

/-- Step 5, the oscillator and DIV (R145). -/
def step5Oscillator (cycles : Cycles) (t : Timer) : Timer :=
  let osc := t.oscillator + cycles.setWidth Params.oscW
  { t with oscillator := osc, div := osc.extractLsb' 8 8 }

/-- Step 6, the reset index (R146): "exceeds" is strict. -/
def step6ResetIndex (cycles : Cycles) (div : Nat) (t : Timer) : Timer :=
  if t.divResetIndex = -1 then t
  else
    let idx := t.divResetIndex + (cycles.toNat : Int)
    if idx > (div : Int) then { bumpTima t with divResetIndex := -1 }
    else { t with divResetIndex := idx }

/-- What the loop of step 7 leaves: the phase counter, TIMA, and whether it wrapped. -/
structure CountResult where
  counter : Nat
  tima : Byte
  wrapped : Bool
  deriving DecidableEq, Repr

/-- The loop of step 7 (R147), at most `fuel` rounds: subtract first, then wrap or increment
(decision D14). -/
def countLoop (fuel div counter : Nat) (tima : Byte) : CountResult :=
  match fuel with
  | 0 => ⟨counter, tima, false⟩
  | n + 1 =>
    if counter < div then ⟨counter, tima, false⟩
    else if tima = 0xFF#8 then ⟨counter - div, 0#8, true⟩
    else countLoop n div (counter - div) (tima + 1)

/-- Rounds that always suffice: a round that does not end the loop increments TIMA, and the round that
finds 0xFF ends it. -/
def countFuel : Nat := 256

/-- Step 7, counting (R147); the second component is `wrapped`. -/
def step7Count (cycles : Cycles) (div : Nat) (t : Timer) : Timer × Bool :=
  if tacEnabled t.tac then
    let r := countLoop countFuel div (t.timerCounter + cycles.toNat) t.tima
    ({ t with
        timerCounter := r.counter, tima := r.tima,
        timaOverflow := t.timaOverflow || r.wrapped }, r.wrapped)
  else (t, false)

/-- Steps 1 to 6 (R131): everything before counting, and the divisor step 2 looked up. -/
def beforeCount (glitch : TacGlitch) (nested : Bool) (cycles : Cycles) (oldIf : Byte) (t : Timer) :
    Timer × Nat :=
  let t1 := step1PendingReload nested oldIf t
  let div := tacDivisor t1.tac
  let t3 := step3DivReset div t1
  let t4 := step4TacChanged glitch div t3
  let t5 := step5Oscillator cycles t4
  (step6ResetIndex cycles div t5, div)

/-- `T.UPDATE` on the timer (R131): the eight steps in order, then `old_tac <- TAC` on both exits (R148,
decision D9). The second component is `irq`. -/
def timerUpdate (glitch : TacGlitch) (nested : Bool) (cycles : Cycles) (oldIf : Byte) (t : Timer) :
    Timer × Bool :=
  let p := beforeCount glitch nested cycles oldIf t
  let r := step7Count cycles p.2 p.1
  ({ r.1 with oldTac := r.1.tac }, r.2)

end Sys2Proof.Machine
end

