-- ==== Sys2Proof/Machine/System.lean ====
section
/-! DEFINITION. `POR` and `T.RESET` (spec/70_reset_and_hazards.md R270, R271; spec/40_timer.md R130). -/

namespace Sys2Proof.Machine

/-- `POR` (R270): every piece of the block's state at its reset value; DRAM and the configuration stay. It
is the one operation that may come first (R273). -/
def execPor (s : State) : Answer :=
  let fresh := ((s.withTimer timerAfterPor).withVideo videoAfterPor).answer .none
  .next { fresh with host := { fresh.host with porDone := true } }

/-- `T.RESET` (R130): the timer alone; IF, the signals and the video interface stay. -/
def execTReset (s : State) : Answer := doneTimer s (timerReset s.tmr) .none

end Sys2Proof.Machine
end

