-- ==== Sys2Proof/Machine/Update.lean ====
section
/-! DEFINITION. `T.UPDATE` (spec/40_timer.md R131). -/

namespace Sys2Proof.Machine

/-- `T.UPDATE cycles, old_if` (R131) with the open glitch predicate (R149, log entry 7) and the default
reading of step 1 (decision D10, log entry 8); the result is `irq` (R243). -/
def execTUpdate (cycles : Cycles) (oldIf : Byte) (s : State) : Answer :=
  let r := timerUpdate tacGlitch Params.ifRaiseNested cycles oldIf s.tmr
  doneTimer s r.1 (.irq r.2)

end Sys2Proof.Machine
end

