-- ==== Sys2Proof/Machine/Scaler.lean ====
section
/-! DEFINITION. The parts of `VI.REDRAW` (spec/42_video_redraw.md R211 to R223): dimensions, the blacked-out
branch, the resize, source addressing and the two pixel conversions. -/

namespace Sys2Proof.Machine

/-- R223: an end below its start. -/
def extentsReversed (v : Video) : Bool :=
  decide (v.hEnd.toNat < v.hStart.toNat) || decide (v.vEnd.toNat < v.vStart.toNat)

/-- `out_width` as `compute_dimensions` computes it (R211). -/
def scaledWidth (v : Video) : Nat :=
  ((v.hEnd.toNat - v.hStart.toNat) * effectiveScale v.xScale) >>> Params.scaleShift

/-- `out_height` as `compute_dimensions` computes it (R211): halved before it is scaled. -/
def scaledHeight (v : Video) : Nat :=
  (((v.vEnd.toNat - v.vStart.toNat) / 2) * effectiveScale v.yScale) >>> Params.scaleShift

/-- `compute_dimensions` (R211). -/
def computeDimensions (v : Video) : Video :=
  { v with outWidth := scaledWidth v, outHeight := scaledHeight v }

/-- `black_out` (R213): the buffer is zeroed once and keeps its size. -/
def blackOut (v : Video) : Video :=
  if v.blackedOut then v
  else { v with fb := List.replicate v.fb.length 0#8, blackedOut := true }

/-- The bytes of a buffer resized to `n` (R214, decision D26): the common prefix, then zeros; nothing
changes where the size does not. -/
def resizeBytes (bytes : List Byte) (n : Nat) : List Byte :=
  if n = bytes.length then bytes
  else bytes.take n ++ List.replicate (n - bytes.length) 0#8

/-- `blacked_out <- 0` and `resize(out_width, out_height)` (R210, R214). -/
def startRendering (v : Video) : Video :=
  { v with
    blackedOut := false
    fb := resizeBytes v.fb (v.outWidth * v.outHeight * 4)
    fbW := v.outWidth
    fbH := v.outHeight }

/-- `src(x, y)` (R222). -/
def sourceOffset (v : Video) (bpp x y : Nat) : Nat :=
  v.origin.toNat + (y * v.viWidth.toNat + x) * bpp

/-- One past the last byte of the source window (R222). -/
def windowEnd (v : Video) (bpp : Nat) : Nat :=
  v.origin.toNat + ((v.outHeight - 1) * v.viWidth.toNat + v.outWidth) * bpp

/-- The whole source window lies in DRAM (R78, R222). -/
def windowReadable (e : Environment) (v : Video) (bpp : Nat) : Bool :=
  e.dramAttached && decide (windowEnd v bpp ≤ e.dramSize)

/-- The frame whose pixel (x, y) has these four bytes, row-major: `dst(x, y) = (y * w + x) * 4` (R222). -/
def raster (w h : Nat) (pixel : Nat → Nat → List Byte) : List Byte :=
  (List.range h).flatMap fun y => (List.range w).flatMap fun x => pixel x y

/-- Pixel (x, y) of the 32-bit format: four bytes copied in address order (R215, R75 (c)). -/
def sourcePixel32 (e : Environment) (v : Video) (x y : Nat) : List Byte :=
  memRead e (sourceOffset v 4 x y) 4

/-- Pixel (x, y) of the 16-bit format, unpacked and expanded (R216). -/
def sourcePixel16 (e : Environment) (v : Video) (x y : Nat) : List Byte :=
  rgbaOf16 (pixel16 (Memory.read e.dram (sourceOffset v 2 x y))
    (Memory.read e.dram (sourceOffset v 2 x y + 1)))

/-- `convert32` (R215): every byte of the resized buffer is overwritten. -/
def convert32 (e : Environment) (v : Video) : Video :=
  { v with fb := raster v.outWidth v.outHeight (sourcePixel32 e v) }

/-- `convert16` (R216): every byte of the resized buffer is overwritten. -/
def convert16 (e : Environment) (v : Video) : Video :=
  { v with fb := raster v.outWidth v.outHeight (sourcePixel16 e v) }

/-- The Rendering branch (R210, R214 to R217): the video interface after it, or none where the conversion
would read outside DRAM (R78). Any other format leaves what the resize left (R217) and reads nothing. -/
def rendered (e : Environment) (v : Video) : Option Video :=
  match pixelFormat v.ctrl with
  | .rgba32 => if windowReadable e v 4 then some (convert32 e (startRendering v)) else none
  | .rgb16 => if windowReadable e v 2 then some (convert16 e (startRendering v)) else none
  | .other => some (startRendering v)
  | .disabled => some (startRendering v)

/-- `VI.REDRAW` after the extents check (R210). -/
def redrawn (e : Environment) (v : Video) : Option Video :=
  let sized := computeDimensions v
  if blackoutCondition sized then some (blackOut sized) else rendered e sized

end Sys2Proof.Machine
end

