-- ==== Sys2Proof/Machine/VideoFrame.lean ====
section
/-! DEFINITION. `VI.REDRAW` (spec/42_video_redraw.md R210) and `VI.VINT` (spec/41_video_registers.md R197). -/

namespace Sys2Proof.Machine

/-- `VI.REDRAW` (R210): the extents check first (R223, R248), then the blacked-out test, then the format,
and inside a conversion the DRAM bounds. The result is always `true`. -/
def execViRedraw (s : State) : Answer :=
  afterPor s
    (if extentsReversed s.vi then .refused .extentsReversed
     else
       match redrawn s.env s.vi with
       | some v => doneVideo s v (.redraw true)
       | none => .refused .sourceOutsideDram)

/-- `VI.VINT` (R197): issued by the environment; it triggers no redraw. -/
def execViVint (s : State) : Answer := doneVideo s (raiseVertical s.vi) .none

end Sys2Proof.Machine
end

