-- ==== Sys2Proof/Machine/VideoRead.lean ====
section
/-! DEFINITION. `VI.RD32` (spec/41_video_registers.md R170, R173 to R192, R194, R196): the word and the
`diag` bit; no read changes the block's state (R77). -/

namespace Sys2Proof.Machine

/-- The value of a mapped register, `diag` false (R170). -/
def readMapped (s : State) (v : Word) : Answer := doneRead s (.word v false)

/-- An address with no backing register reads 0, `diag` true (R194, R196, R240). -/
def readUnmapped (s : State) : Answer := doneRead s (.word 0#32 true)

/-- `VI.RD32 CTRL` (R173). -/
def execViRd32Ctrl (s : State) : Answer := readMapped s s.vi.ctrl
/-- `VI.RD32 ORIGIN` (R175). -/
def execViRd32Origin (s : State) : Answer := readMapped s (s.vi.origin.setWidth 32)
/-- `VI.RD32 WIDTH` (R177). -/
def execViRd32Width (s : State) : Answer := readMapped s (s.vi.viWidth.setWidth 32)
/-- `VI.RD32 V_INTR` (R179). -/
def execViRd32VIntr (s : State) : Answer := readMapped s (s.vi.vIntr.setWidth 32)
/-- `VI.RD32 V_CURRENT` (R184): the scanline the environment presents at this read. -/
def execViRd32VCurrent (s : State) : Answer :=
  readMapped (drawScanline s).2 ((drawScanline s).1.setWidth 32)
/-- `VI.RD32 BURST` (R194). -/
def execViRd32Burst (s : State) : Answer := readUnmapped s
/-- `VI.RD32 V_SYNC` (R194). -/
def execViRd32VSync (s : State) : Answer := readUnmapped s
/-- `VI.RD32 H_SYNC` (R194). -/
def execViRd32HSync (s : State) : Answer := readUnmapped s
/-- `VI.RD32 H_SYNC_LEAP` (R194). -/
def execViRd32HSyncLeap (s : State) : Answer := readUnmapped s
/-- `VI.RD32 H_VIDEO` (R186). -/
def execViRd32HVideo (s : State) : Answer := readMapped s (extentWord s.vi.hStart s.vi.hEnd)
/-- `VI.RD32 V_VIDEO` (R188). -/
def execViRd32VVideo (s : State) : Answer := readMapped s (extentWord s.vi.vStart s.vi.vEnd)
/-- `VI.RD32 V_BURST` (R194). -/
def execViRd32VBurst (s : State) : Answer := readUnmapped s
/-- `VI.RD32 X_SCALE` (R190): a stored 0 reads as 0. -/
def execViRd32XScale (s : State) : Answer := readMapped s (s.vi.xScale.setWidth 32)
/-- `VI.RD32 Y_SCALE` (R192). -/
def execViRd32YScale (s : State) : Answer := readMapped s (s.vi.yScale.setWidth 32)
/-- `VI.RD32 a` with `a` not in the register map (R196). -/
def execViRd32Unmapped (_ : Word) (s : State) : Answer := readUnmapped s

end Sys2Proof.Machine
end

