-- ==== Sys2Proof/Machine/VideoWrite.lean ====
section
/-! DEFINITION. `VI.WR32` (spec/41_video_registers.md R171 to R195): each write changes only what its rule
names and returns the `diag` bit. -/

namespace Sys2Proof.Machine

/-- A write to a mapped register: the video interface becomes `v`, `diag` false (R171). -/
def writeMapped (s : State) (v : Video) : Answer := doneVideo s v (.diag false)

/-- A write that is accepted and changes nothing, `diag` false (R193). -/
def writeIgnored (s : State) : Answer := doneRead s (.diag false)

/-- `VI.WR32 CTRL, v` (R172). -/
def execViWr32Ctrl (v : Word) (s : State) : Answer := writeMapped s { s.vi with ctrl := ctrlStored v }
/-- `VI.WR32 ORIGIN, v` (R174): rebinds the source where DRAM is attached, counts a frame submission. -/
def execViWr32Origin (v : Word) (s : State) : Answer :=
  writeMapped s
    { s.vi with
      origin := originStored v
      srcBound := if s.env.dramAttached then true else s.vi.srcBound
      frameCount := s.vi.frameCount + 1 }
/-- `VI.WR32 WIDTH, v` (R176). -/
def execViWr32Width (v : Word) (s : State) : Answer := writeMapped s { s.vi with viWidth := widthStored v }
/-- `VI.WR32 V_INTR, v` (R178). -/
def execViWr32VIntr (v : Word) (s : State) : Answer := writeMapped s { s.vi with vIntr := vintrStored v }
/-- `VI.WR32 V_CURRENT, v` (R183): the data is discarded, the pending condition is cleared. -/
def execViWr32VCurrent (_ : Word) (s : State) : Answer := writeMapped s (clearVertical s.vi)
/-- `VI.WR32 BURST, v` (R193). -/
def execViWr32Burst (_ : Word) (s : State) : Answer := writeIgnored s
/-- `VI.WR32 V_SYNC, v` (R193). -/
def execViWr32VSync (_ : Word) (s : State) : Answer := writeIgnored s
/-- `VI.WR32 H_SYNC, v` (R193). -/
def execViWr32HSync (_ : Word) (s : State) : Answer := writeIgnored s
/-- `VI.WR32 H_SYNC_LEAP, v` (R193). -/
def execViWr32HSyncLeap (_ : Word) (s : State) : Answer := writeIgnored s
/-- `VI.WR32 H_VIDEO, v` (R185). -/
def execViWr32HVideo (v : Word) (s : State) : Answer :=
  writeMapped s { s.vi with hStart := extentStart v, hEnd := extentEnd v }
/-- `VI.WR32 V_VIDEO, v` (R187). -/
def execViWr32VVideo (v : Word) (s : State) : Answer :=
  writeMapped s { s.vi with vStart := extentStart v, vEnd := extentEnd v }
/-- `VI.WR32 V_BURST, v` (R193). -/
def execViWr32VBurst (_ : Word) (s : State) : Answer := writeIgnored s
/-- `VI.WR32 X_SCALE, v` (R189): the value 0 is stored as 0. -/
def execViWr32XScale (v : Word) (s : State) : Answer := writeMapped s { s.vi with xScale := scaleStored v }
/-- `VI.WR32 Y_SCALE, v` (R191). -/
def execViWr32YScale (v : Word) (s : State) : Answer := writeMapped s { s.vi with yScale := scaleStored v }
/-- `VI.WR32 a, v` with `a` not in the register map (R195): no state change, `diag` true. -/
def execViWr32Unmapped (_ _ : Word) (s : State) : Answer := doneRead s (.diag true)

end Sys2Proof.Machine
end

