-- ==== Sys2Proof/Machine/Dispatch.lean ====
section
/-! DEFINITION. The meaning of every operation, one arm per row of spec/opcode_table.json. -/

namespace Sys2Proof.Machine

def exec (i : Instr) (s : State) : Host.Outcome State Fault Refusal :=
  match i with
  | .por => Sys2Proof.Machine.execPor s
  | .tReset => Sys2Proof.Machine.execTReset s
  | .tUpdate cycles oldIf => Sys2Proof.Machine.execTUpdate cycles oldIf s
  | .busRd8Div => Sys2Proof.Machine.execBusRd8Div s
  | .busRd8Tima => Sys2Proof.Machine.execBusRd8Tima s
  | .busRd8Tma => Sys2Proof.Machine.execBusRd8Tma s
  | .busRd8Tac => Sys2Proof.Machine.execBusRd8Tac s
  | .busRd8If => Sys2Proof.Machine.execBusRd8If s
  | .busRd8Other a => Sys2Proof.Machine.execBusRd8Other a s
  | .busWr8Div v => Sys2Proof.Machine.execBusWr8Div v s
  | .busWr8Tima v => Sys2Proof.Machine.execBusWr8Tima v s
  | .busWr8Tma v => Sys2Proof.Machine.execBusWr8Tma v s
  | .busWr8Tac v => Sys2Proof.Machine.execBusWr8Tac v s
  | .busWr8If v => Sys2Proof.Machine.execBusWr8If v s
  | .busWr8Other a v => Sys2Proof.Machine.execBusWr8Other a v s
  | .viRd32Ctrl => Sys2Proof.Machine.execViRd32Ctrl s
  | .viRd32Origin => Sys2Proof.Machine.execViRd32Origin s
  | .viRd32Width => Sys2Proof.Machine.execViRd32Width s
  | .viRd32VIntr => Sys2Proof.Machine.execViRd32VIntr s
  | .viRd32VCurrent => Sys2Proof.Machine.execViRd32VCurrent s
  | .viRd32Burst => Sys2Proof.Machine.execViRd32Burst s
  | .viRd32VSync => Sys2Proof.Machine.execViRd32VSync s
  | .viRd32HSync => Sys2Proof.Machine.execViRd32HSync s
  | .viRd32HSyncLeap => Sys2Proof.Machine.execViRd32HSyncLeap s
  | .viRd32HVideo => Sys2Proof.Machine.execViRd32HVideo s
  | .viRd32VVideo => Sys2Proof.Machine.execViRd32VVideo s
  | .viRd32VBurst => Sys2Proof.Machine.execViRd32VBurst s
  | .viRd32XScale => Sys2Proof.Machine.execViRd32XScale s
  | .viRd32YScale => Sys2Proof.Machine.execViRd32YScale s
  | .viRd32Unmapped a => Sys2Proof.Machine.execViRd32Unmapped a s
  | .viWr32Ctrl v => Sys2Proof.Machine.execViWr32Ctrl v s
  | .viWr32Origin v => Sys2Proof.Machine.execViWr32Origin v s
  | .viWr32Width v => Sys2Proof.Machine.execViWr32Width v s
  | .viWr32VIntr v => Sys2Proof.Machine.execViWr32VIntr v s
  | .viWr32VCurrent v => Sys2Proof.Machine.execViWr32VCurrent v s
  | .viWr32Burst v => Sys2Proof.Machine.execViWr32Burst v s
  | .viWr32VSync v => Sys2Proof.Machine.execViWr32VSync v s
  | .viWr32HSync v => Sys2Proof.Machine.execViWr32HSync v s
  | .viWr32HSyncLeap v => Sys2Proof.Machine.execViWr32HSyncLeap v s
  | .viWr32HVideo v => Sys2Proof.Machine.execViWr32HVideo v s
  | .viWr32VVideo v => Sys2Proof.Machine.execViWr32VVideo v s
  | .viWr32VBurst v => Sys2Proof.Machine.execViWr32VBurst v s
  | .viWr32XScale v => Sys2Proof.Machine.execViWr32XScale v s
  | .viWr32YScale v => Sys2Proof.Machine.execViWr32YScale v s
  | .viWr32Unmapped a v => Sys2Proof.Machine.execViWr32Unmapped a v s
  | .viRedraw => Sys2Proof.Machine.execViRedraw s
  | .viVint => Sys2Proof.Machine.execViVint s

end Sys2Proof.Machine
end

