-- ==== Sys2Proof/Machine/Step.lean ====
section
/-! DEFINITION. One step: the next event of the outside world (spec/20_memory.md R85). The block has no
program counter and fetches nothing (spec/10_state.md R21); the host's next operation stands at the head of
the inbox, and it is there that `withFetchWord` puts one (log entry 2). -/

namespace Sys2Proof.Machine

/-- One step of the machine. -/
def step (s : State) : Host.Outcome State Fault Refusal := takeTurn exec s

/-- The state in which the host's next operation is the one these bits describe. -/
def State.withFetchWord (s : State) (nbits w : Nat) : State := issueTableWord s nbits w

end Sys2Proof.Machine
end

