-- ==== Sys2Proof/Machine/Convention.lean ====
section
/-! DEFINITION. What the host does with operations: several in a row, and the calling convention of
`T.UPDATE`, the pseudo-operation `T.STEP` (spec/30_encoding.md R122, spec/70_reset_and_hazards.md R274). It
has no encoding and is no constructor of `Instr`. -/

namespace Sys2Proof.Machine

/-- The next operation, where the one before it was done. -/
def andThen (o : Answer) (k : State → Answer) : Answer :=
  match o with
  | .next s => k s
  | .fault f => .fault f
  | .refused r => .refused r

/-- The operations of a list, in order, up to the first that is not done (R85). -/
def runOps (ops : List Instr) (s : State) : Answer :=
  match ops with
  | [] => .next s
  | i :: rest => andThen (exec i s) (runOps rest)

/-- The byte the last operation returned: the host's sample after `BUS.RD8`. -/
def sampledByte (s : State) : Byte :=
  match s.host.result with
  | .byte v => v
  | _ => 0

/-- `T.STEP cycles` around the bus operations `ops` of one CPU instruction (R122, R274): sample IF, do the
operations, then exactly one `T.UPDATE` with the sample. -/
def tStep (cycles : Cycles) (ops : List Instr) (s : State) : Answer :=
  andThen (exec .busRd8If s) fun s1 =>
    andThen (runOps ops s1) fun s2 => exec (.tUpdate cycles (sampledByte s1)) s2

/-- One `T.UPDATE` after another with the cycle counts and snapshots of the list. -/
def runUpdates (calls : List (Cycles × Byte)) (s : State) : Answer :=
  match calls with
  | [] => .next s
  | c :: rest => andThen (exec (.tUpdate c.1 c.2) s) (runUpdates rest)

end Sys2Proof.Machine
end

