-- ==== Sys2Proof/Safety.lean ====
section
/-! DEFINITION. What a good state is: the invariants of spec/10_state.md R45 and R62, with the bounds of
spec/40_timer.md R163 (e) and spec/42_video_redraw.md R211, and the canonical form of DRAM. -/

namespace Sys2Proof.Machine

/-- R45 (a), (b), (c), (e) and R163 (e). R45 (d) speaks of the last `T.UPDATE` and is no property of one
state. -/
structure TimerInv (t : Timer) : Prop where
  divIsHighByte : t.div = t.oscillator.extractLsb' 8 8
  tacLegal : t.tac.toNat ≤ 7
  ifMasked : t.ifReg &&& ~~~Params.ifMask = 0#8
  indexAtLeast : -1 ≤ t.divResetIndex
  indexAtMost : t.divResetIndex ≤ 1024 + 255
  shadowCurrent : t.tacChanged = false → t.oldTac = t.tac

/-- R62 (a) to (c) and the ranges of R211. The masks of R62 (a) but CTRL's are in the types. -/
structure VideoInv (v : Video) : Prop where
  ctrlMasked : v.ctrl &&& ~~~Params.ctrlMask = 0#32
  bufferSize : v.fb.length = v.fbW * v.fbH * 4
  renderingSize : v.blackedOut = false →
    v.fbW = v.outWidth ∧ v.fbH = v.outHeight ∧ v.outWidth ≠ 0 ∧ v.outHeight ≠ 0
  blackIsZero : v.blackedOut = true → ∀ b ∈ v.fb, b = 0#8
  widthRange : v.outWidth ≤ 4091
  heightRange : v.outHeight ≤ 2043
  bufferRange : v.fb.length ≤ 33431652

/-- DRAM is in canonical form and lists no offset beyond its size (R73). -/
structure EnvironmentInv (e : Environment) : Prop where
  canonical : Memory.wf e.dram = true
  within : ∀ c ∈ e.dram, c.1 < e.dramSize

/-- The invariant of the machine. -/
structure Inv (s : State) : Prop where
  timer : TimerInv s.tmr
  video : VideoInv s.vi
  environment : EnvironmentInv s.env

end Sys2Proof.Machine
end

