-- ==== Sys2Proof/Certificates/Slice0/Obligations.lean ====
section
/-! DEFINITION. The statements for the provers, each a proposition about the machine for every state and
every operand; OBLIGATIONS.json lists them. "Whole equation" below means that the statement gives the whole
next state, so everything it does not name is unchanged: both devices, every DRAM byte, every framebuffer
byte and the host's side. Where a statement rests on a decision of the spec (D<n>) or on a choice of the
model (log entry <n>), its docstring says so. -/

open Sys2Proof Sys2Proof.Machine

/-! ### Words the statements share -/

/-- The host's side, with this result, is otherwise as it was. -/
def Sys2Proof.Claims.hostAnswered (s t : State) (r : OpResult) : Prop :=
  t.host = { s.host with result := r }

/-- The state in which the last operation has returned this word with `diag` false; else unchanged. -/
def Sys2Proof.Claims.wordReturned (s : State) (v : Word) : State :=
  { s with host := { s.host with result := .word v false } }

/-- The state in which the video interface is `v` and the last operation has returned `diag` false; else
unchanged. -/
def Sys2Proof.Claims.registerWritten (s : State) (v : Video) : State :=
  { s with vi := v, host := { s.host with result := .diag false } }

/-- The operations of the timer and of the bus cells. -/
def Sys2Proof.Claims.isTimerOp (i : Instr) : Bool :=
  match i with
  | .tReset | .tUpdate _ _ => true
  | .busRd8Div | .busRd8Tima | .busRd8Tma | .busRd8Tac | .busRd8If | .busRd8Other _ => true
  | .busWr8Div _ | .busWr8Tima _ | .busWr8Tma _ | .busWr8Tac _ | .busWr8If _ | .busWr8Other _ _ => true
  | _ => false

/-- The operations of the video interface. -/
def Sys2Proof.Claims.isVideoOp (i : Instr) : Bool := !(Claims.isTimerOp i) && i != .por

/-- An operation that writes neither IF nor, like `POR`, `T.RESET` and `T.UPDATE`, the overflow-delay flag.
R274 (2) lets a host issue more than these between the sample of IF and its `T.UPDATE`: `BUS.WR8 IF` too,
which this shuts out, because it can drop the request (R245, R278). -/
def Sys2Proof.Claims.keepsRequest (i : Instr) : Bool :=
  match i with
  | .por | .tReset | .tUpdate _ _ | .busWr8If _ => false
  | _ => true

/-- The timer has nothing pending: no reload, no signal, no tracked reset index. Then `T.UPDATE` is steps
5 and 7 alone. -/
def Sys2Proof.Claims.quiet (t : Timer) : Prop :=
  t.timaOverflow = false ∧ t.divReset = false ∧ t.tacChanged = false ∧ t.divResetIndex = -1

/-- The oscillator after `cycles` more. -/
def Sys2Proof.Claims.advanced (t : Timer) (cycles : Cycles) : Oscillator :=
  t.oscillator + cycles.setWidth Params.oscW

/-- The divisor TAC selects (R111, R142). -/
def Sys2Proof.Claims.divisorOf (tac : Byte) : Nat := Params.freqDiv (tac.extractLsb' 0 2)

/-- What counting leaves of a phase counter and a TIMA after `cycles` more, with TAC as it is (R147;
decision D14): all as it was with counting disabled; else the quotient by the divisor added to TIMA where
the sum stays below 256, and otherwise TIMA 0, a wrap, and the counter less one divisor for each round up
to the wrap. -/
def Sys2Proof.Claims.counted (tac : Byte) (cycles : Cycles) (phase : Nat) (tima : Byte) : CountResult :=
  if tac.getLsbD 2 = false then ⟨phase, tima, false⟩
  else if tima.toNat + (phase + cycles.toNat) / divisorOf tac < 256 then
    ⟨(phase + cycles.toNat) % divisorOf tac,
      tima + BitVec.ofNat 8 ((phase + cycles.toNat) / divisorOf tac), false⟩
  else ⟨phase + cycles.toNat - (256 - tima.toNat) * divisorOf tac, 0, true⟩

/-- One where the condition holds, else zero: an increment of TIMA by steps 3, 4 or 6. -/
def Sys2Proof.Claims.oneIf (p : Prop) [Decidable p] : Byte := if p then 1 else 0

/-- The phase counter after step 3: a divider reset zeroes it (R143). -/
def Sys2Proof.Claims.phaseAfterReset (t : Timer) : Nat := if t.divReset then 0 else t.timerCounter

/-- The reset index after step 3: a divider reset restarts it (R143). -/
def Sys2Proof.Claims.indexAfterReset (t : Timer) : Int := if t.divReset then 0 else t.divResetIndex

/-- Step 3 increments TIMA: a divider reset with the index at half the divisor or beyond (R143). -/
def Sys2Proof.Claims.resetBumps (t : Timer) : Bool :=
  t.divReset && decide (((divisorOf t.tac / 2 : Nat) : Int) ≤ t.divResetIndex)

/-- Step 4 increments TIMA: a TAC change of a timer that was enabled, where the glitch predicate holds of
the old divisor, the new enable, the new divisor, the phase counter and the reset index (R144, R149). -/
def Sys2Proof.Claims.changeBumps (g : TacGlitch) (t : Timer) : Bool :=
  t.tacChanged && t.oldTac.getLsbD 2 &&
    g (divisorOf t.oldTac) (t.tac.getLsbD 2) (divisorOf t.tac) (phaseAfterReset t) (indexAfterReset t)

/-- Step 6 increments TIMA: an index that is tracked exceeds the divisor after the cycles (R146). -/
def Sys2Proof.Claims.indexBumps (t : Timer) (cycles : Cycles) : Bool :=
  indexAfterReset t != -1 && decide ((divisorOf t.tac : Int) < indexAfterReset t + (cycles.toNat : Int))

/-- The extents are not reversed, `VI.REDRAW` is not refused for them (R223). -/
def Sys2Proof.Claims.extentsOk (v : Video) : Prop :=
  v.hStart.toNat ≤ v.hEnd.toNat ∧ v.vStart.toNat ≤ v.vEnd.toNat

/-- `out_width` by the formula of R211. -/
def Sys2Proof.Claims.widthOf (v : Video) : Nat :=
  (v.hEnd.toNat - v.hStart.toNat) * (if v.xScale = 0 then 1024 else v.xScale.toNat) / 1024

/-- `out_height` by the formula of R211. -/
def Sys2Proof.Claims.heightOf (v : Video) : Nat :=
  (v.vEnd.toNat - v.vStart.toNat) / 2 * (if v.yScale = 0 then 1024 else v.yScale.toNat) / 1024

/-- The blacked-out condition of R212 on the registers. -/
def Sys2Proof.Claims.blackout (v : Video) : Prop :=
  Claims.widthOf v = 0 ∨ Claims.heightOf v = 0 ∨ v.srcBound = false ∨ v.ctrl.toNat % 4 = 0

/-- One past the last byte of the source window (R222). -/
def Sys2Proof.Claims.windowEndOf (v : Video) (bpp : Nat) : Nat :=
  v.origin.toNat + ((Claims.heightOf v - 1) * v.viWidth.toNat + Claims.widthOf v) * bpp

/-- The offset of source pixel (x, y) (R222). -/
def Sys2Proof.Claims.pixelAt (v : Video) (bpp x y : Nat) : Nat :=
  v.origin.toNat + (y * v.viWidth.toNat + x) * bpp

open Sys2Proof.Claims

/-! ### Descriptors -/

/-- Every well-formed operation decodes from its own descriptor, with every operand at every value. The
descriptor is the spec's own (decision D1). -/
def Obligations.DecodeOfEncode : Prop := ∀ i : Instr, wellFormed i = true → decode (encode i) = .ok i

/-- A descriptor that decodes is the encoding of what it decodes to, which is well-formed: no two
descriptors mean the same, none means an ill-formed operation (decision D1). -/
def Obligations.EncodeOfDecode : Prop :=
  ∀ (od : Descriptor) (i : Instr), decode od = .ok i → wellFormed i = true ∧ encode i = od

/-- Descriptors written out from R100 and R101 (decision D1) decode to the operations they stand for. -/
def Obligations.SpecWordsDecode : Prop :=
  decode 0x00000000000000000000#80 = .ok .por ∧
  decode 0x01000000000000000000#80 = .ok .tReset ∧
  decode 0x02FF000000000000001F#80 = .ok (.tUpdate 255#8 0x1F#8) ∧
  decode 0x10000000FF0400000000#80 = .ok .busRd8Div ∧
  decode 0x10000000FF0800000000#80 = .ok (.busRd8Other 0xFF08#16) ∧
  decode 0x11000000FF0700000005#80 = .ok (.busWr8Tac 0x05#8) ∧
  decode 0x20000440002400000000#80 = .ok .viRd32HVideo ∧
  decode 0x20000440003800000000#80 = .ok (.viRd32Unmapped 0x04400038#32) ∧
  decode 0x210004400004A0123456#80 = .ok (.viWr32Origin 0xA0123456#32) ∧
  decode 0x22000000000000000000#80 = .ok .viRedraw ∧
  decode 0x23000000000000000000#80 = .ok .viVint ∧
  decode 0x03000000000000000000#80 = .error (.illegalOp 0x03#8) ∧
  decode 0x01000000000000000001#80 = .error .reserved

/-- R103 (a), (b): an operation code that R101 does not list is illegal, and a legal one with a non-zero
must-be-zero field is reserved (decision D1). -/
def Obligations.IllegalAndReservedDescriptors : Prop :=
  ∀ od : Descriptor,
    (od.extractLsb' 72 8 ∉ [0x00#8, 0x01#8, 0x02#8, 0x10#8, 0x11#8, 0x20#8, 0x21#8, 0x22#8, 0x23#8] →
      decode od = .error (.illegalOp (od.extractLsb' 72 8))) ∧
    (od.extractLsb' 72 8 ∈ [0x00#8, 0x01#8, 0x22#8, 0x23#8] → od.extractLsb' 0 72 ≠ 0 →
      decode od = .error .reserved) ∧
    (od.extractLsb' 72 8 = 0x02#8 → (od.extractLsb' 32 32 ≠ 0 ∨ od.extractLsb' 8 24 ≠ 0) →
      decode od = .error .reserved) ∧
    (od.extractLsb' 72 8 = 0x10#8 → (od.extractLsb' 48 24 ≠ 0 ∨ od.extractLsb' 0 32 ≠ 0) →
      decode od = .error .reserved) ∧
    (od.extractLsb' 72 8 = 0x11#8 → (od.extractLsb' 48 24 ≠ 0 ∨ od.extractLsb' 8 24 ≠ 0) →
      decode od = .error .reserved) ∧
    (od.extractLsb' 72 8 = 0x20#8 → (od.extractLsb' 64 8 ≠ 0 ∨ od.extractLsb' 0 32 ≠ 0) →
      decode od = .error .reserved) ∧
    (od.extractLsb' 72 8 = 0x21#8 → od.extractLsb' 64 8 ≠ 0 → decode od = .error .reserved)

/-- The address of a legal descriptor selects the register (R101, R104, R110, R112; decisions D1, D2, D17):
each of the four access operations decodes, with every address and every operand, to what the address
selects, and the fourteen video registers stand at `P_VI_BASE` and up, one every four bytes. -/
def Obligations.AddressSelectsTheRegister : Prop :=
  (∀ (a : BusAddr) (v : Byte),
    decode (pack 0x10 0 (a.setWidth 32) 0) = .ok (busRead a) ∧
    decode (pack 0x11 0 (a.setWidth 32) (v.setWidth 32)) = .ok (busWrite a v)) ∧
  (∀ a v : Word,
    decode (pack 0x20 0 a 0) = .ok (viRead a) ∧ decode (pack 0x21 0 a v) = .ok (viWrite a v)) ∧
  (List.range 14).map (fun k => viRead (Params.viBase + BitVec.ofNat 32 (4 * k))) =
    [.viRd32Ctrl, .viRd32Origin, .viRd32Width, .viRd32VIntr, .viRd32VCurrent, .viRd32Burst, .viRd32VSync,
      .viRd32HSync, .viRd32HSyncLeap, .viRd32HVideo, .viRd32VVideo, .viRd32VBurst, .viRd32XScale,
      .viRd32YScale] ∧
  (∀ v : Word, (List.range 14).map (fun k => viWrite (Params.viBase + BitVec.ofNat 32 (4 * k)) v) =
    [.viWr32Ctrl v, .viWr32Origin v, .viWr32Width v, .viWr32VIntr v, .viWr32VCurrent v, .viWr32Burst v,
      .viWr32VSync v, .viWr32HSync v, .viWr32HSyncLeap v, .viWr32HVideo v, .viWr32VVideo v,
      .viWr32VBurst v, .viWr32XScale v, .viWr32YScale v])

/-- A step takes the issued descriptor at the head of the inbox: it does the operation the descriptor
decodes to, in the state without that event, or refuses by the decoder's reason. That operations arrive
through an inbox is the model's choice (log entry 2). -/
def Obligations.StepRunsTheIssuedOperation : Prop :=
  ∀ (s : State) (od : Descriptor) (rest : List HostEvent), s.host.inbox = .issue od :: rest →
    (∀ i, decode od = .ok i → step s = exec i { s with host := { s.host with inbox := rest } }) ∧
    (∀ op, decode od = .error (.illegalOp op) → step s = .refused (.illegalOperation op)) ∧
    (decode od = .error .reserved → step s = .refused .reservedDescriptor)

/-- The word of an opcode-table row, placed where the next step takes it, runs the operation the decoder
reads from it, in the state it was placed in. The model's choice (log entry 2). -/
def Obligations.PlacedWordRuns : Prop :=
  ∀ (s : State) (w : Nat) (i : Instr), decodeTableWord 80 w = some i →
    step (s.withFetchWord 80 w) = exec i s

/-- Events that are no operation (log entries 2 and 5): with nothing issued a step changes nothing, and a
store of the rest of the machine changes exactly the DRAM byte it names, or faults where DRAM has no such
offset. -/
def Obligations.StepWithoutAnOperation : Prop :=
  ∀ s : State,
    (s.host.inbox = [] → step s = .next s) ∧
    (∀ a b rest, s.host.inbox = .dramStore a b :: rest → Memory.wf s.env.dram = true →
      (s.env.dramAttached = true → a < s.env.dramSize → ∃ m,
        step s = .next { s with
          env := { s.env with dram := m }, host := { s.host with inbox := rest } } ∧
        Memory.wf m = true ∧
        ∀ c, Memory.read m c = if c = a then b else Memory.read s.env.dram c) ∧
      ((s.env.dramAttached = false ∨ s.env.dramSize ≤ a) → step s = .fault (.dramOffsetAbsent a)))

/-! ### POR, T.RESET, the order of operations -/

/-- `POR` completes in every state and leaves every piece of the block's state at the value of the `POR`
column of R66 (decisions D16, D27); DRAM and the configuration, the inbox and the draws stay. -/
def Obligations.PorSetsEveryState : Prop :=
  ∀ s : State, ∃ t, exec .por s = .next t ∧
    t.tmr = { div := 0, tac := 0, tima := 0, tma := 0, ifReg := 0, divReset := false,
              tacChanged := false, oscillator := 0, timerCounter := 0, divResetIndex := 0,
              oldTac := 0, timaOverflow := false } ∧
    t.vi = { ctrl := 0, origin := 0, srcBound := false, viWidth := 0, vIntr := 0, hStart := 0,
             hEnd := 0, vStart := 0, vEnd := 0, xScale := 0, yScale := 0, outWidth := 0,
             outHeight := 0, fbW := 0, fbH := 0, fb := [], blackedOut := true,
             viIrqPending := false, frameCount := 0 } ∧
    t.env = s.env ∧
    t.host = { s.host with porDone := true, result := .none }

/-- The reset state of the model is a state right after `POR` (the model's choice, log entry 4): `POR` from
it changes nothing (R272). -/
def Obligations.ResetIsAfterPor : Prop := exec .por State.reset = .next State.reset

/-- `T.RESET` (R130, R271; decision D16): whole equation. IF, both signals and the video interface stay. -/
def Obligations.TResetZeroesTheTimer : Prop :=
  ∀ s : State, s.host.porDone = true →
    exec .tReset s = .next { s with
      tmr := { s.tmr with
        div := 0, tac := 0, tima := 0, tma := 0, oscillator := 0, timerCounter := 0,
        divResetIndex := 0, oldTac := 0, timaOverflow := false }
      host := { s.host with result := .none } }

/-- After `POR`, a `T.RESET` changes nothing (R271, derived by the spec). -/
def Obligations.TResetAfterPorChangesNothing : Prop :=
  ∀ s : State, ∃ t, exec .por s = .next t ∧ exec .tReset t = .next t

/-- Before the first `POR` every other operation is refused (R273 (1), decision D32). That a bit of State
says whether a `POR` has been issued is the model's choice (log entry 3). -/
def Obligations.NothingBeforePor : Prop :=
  ∀ (i : Instr) (s : State), s.host.porDone = false → i ≠ .por → exec i s = .refused .beforePor

/-- No operation faults (R9), in any state: the only fault of a step is a store of the environment to a
DRAM offset that does not exist (log entry 5). -/
def Obligations.NoOperationFaults : Prop :=
  (∀ (i : Instr) (s : State) (f : Fault), exec i s ≠ .fault f) ∧
  (∀ (s : State) (f : Fault), step s = .fault f →
    ∃ a b, s.host.inbox.head? = some (.dramStore a b) ∧ f = .dramOffsetAbsent a)

/-! ### T.UPDATE -/

/-- Step 5 (R145), in every state and whatever TAC is: `T.UPDATE` completes, the oscillator advances by
`cycles` modulo 65536 (from 0 where the same call handles a divider reset), and DIV is its high byte. -/
def Obligations.UpdateAdvancesTheOscillator : Prop :=
  ∀ (s : State) (cycles : Cycles) (oldIf : Byte), s.host.porDone = true →
    ∃ t, exec (.tUpdate cycles oldIf) s = .next t ∧
      t.tmr.oscillator.toNat =
        ((if s.tmr.divReset then 0 else s.tmr.oscillator.toNat) + cycles.toNat) % 65536 ∧
      t.tmr.div.toNat = t.tmr.oscillator.toNat / 256

/-- The frame of `T.UPDATE` (R131): TAC and TMA, the video interface, DRAM and the configuration stay; both
signals are cleared (decision D8); `old_tac` becomes TAC (decision D9); `irq` is true exactly where the
overflow-delay flag is left set (R243), and then TIMA reads 0. -/
def Obligations.UpdateFrame : Prop :=
  ∀ (s t : State) (cycles : Cycles) (oldIf : Byte), exec (.tUpdate cycles oldIf) s = .next t →
    t.tmr.tac = s.tmr.tac ∧ t.tmr.tma = s.tmr.tma ∧ t.tmr.oldTac = s.tmr.tac ∧
    t.tmr.divReset = false ∧ t.tmr.tacChanged = false ∧
    t.vi = s.vi ∧ t.env = s.env ∧ hostAnswered s t (.irq t.tmr.timaOverflow) ∧
    (t.tmr.timaOverflow = true → t.tmr.tima = 0)

/-- The request bit (R141, R244, R245), in every state: `T.UPDATE` sets bit 2 of IF where an overflow is
pending and IF is still the snapshot, and otherwise changes no bit of IF; so a pending request whose IF
differs from the snapshot is dropped. The literal reading of step 1 (decision D10). -/
def Obligations.UpdateRequestsOnlyForAPendingOverflow : Prop :=
  ∀ (s t : State) (cycles : Cycles) (oldIf : Byte), exec (.tUpdate cycles oldIf) s = .next t →
    t.tmr.ifReg =
      if s.tmr.timaOverflow = true ∧ s.tmr.ifReg = oldIf then s.tmr.ifReg ||| 0x04#8 else s.tmr.ifReg

/-- Step 1 (R141; decisions D10, D14) where no other step moves TIMA but counting: a TIMA that still reads
0 is reloaded from TMA, any other stays, the flag is cleared, and an enabled timer counts on from there in
the same call (R141 (e), R147). Whole equation. -/
def Obligations.PendingReload : Prop :=
  ∀ (s : State) (cycles : Cycles) (oldIf : Byte), s.host.porDone = true → s.tmr.timaOverflow = true →
    s.tmr.divReset = false → s.tmr.tacChanged = false → s.tmr.divResetIndex = -1 →
    ∀ r : CountResult, r = counted s.tmr.tac cycles s.tmr.timerCounter
      (if s.tmr.tima = 0 then s.tmr.tma else s.tmr.tima) →
    exec (.tUpdate cycles oldIf) s = .next { s with
      tmr := { s.tmr with
        tima := r.tima
        timerCounter := r.counter
        timaOverflow := r.wrapped
        ifReg := if s.tmr.ifReg = oldIf then s.tmr.ifReg ||| 0x04#8 else s.tmr.ifReg
        oscillator := advanced s.tmr cycles
        div := (advanced s.tmr cycles).extractLsb' 8 8
        oldTac := s.tmr.tac }
      host := { s.host with result := .irq r.wrapped } }

/-- Step 3 (R143; decisions D8, D13, D14) with no overflow pending and no TAC change: the divider reset
increments TIMA where the reset index had reached half the divisor, zeroes the oscillator, the phase counter
and the index, and the same call then counts its cycles from there (R145 to R147), an enabled timer TIMA
too. Whole equation. -/
def Obligations.DividerReset : Prop :=
  ∀ (s : State) (cycles : Cycles) (oldIf : Byte), s.host.porDone = true → s.tmr.timaOverflow = false →
    s.tmr.divReset = true → s.tmr.tacChanged = false →
    ∀ (div : Nat) (r : CountResult), div = divisorOf s.tmr.tac →
    r = counted s.tmr.tac cycles 0
      (s.tmr.tima + oneIf (((div / 2 : Nat) : Int) ≤ s.tmr.divResetIndex) + oneIf (div < cycles.toNat)) →
    exec (.tUpdate cycles oldIf) s = .next { s with
      tmr := { s.tmr with
        tima := r.tima
        timerCounter := r.counter
        timaOverflow := r.wrapped
        divReset := false
        oscillator := cycles.setWidth Params.oscW
        div := 0
        divResetIndex := if div < cycles.toNat then -1 else (cycles.toNat : Int)
        oldTac := s.tmr.tac }
      host := { s.host with result := .irq r.wrapped } }

/-- Step 4 (R144, R149), for every glitch predicate: the step touches TIMA and clears its signal
(decision D8), and TIMA goes up, by one (decision D13), exactly where the signal was set, the previous TAC
was enabled and the predicate holds of the old divisor, the new enable, the divisor step 2 looked up, the
phase counter and the reset index. -/
def Obligations.TacChangeGlitchesAtMostOnce : Prop :=
  ∀ (g : TacGlitch) (div : Nat) (t : Timer),
    step4TacChanged g div t = { t with
      tima := t.tima + oneIf (t.tacChanged = true ∧ t.oldTac.getLsbD 2 = true ∧
        g (divisorOf t.oldTac) (t.tac.getLsbD 2) div t.timerCounter t.divResetIndex = true)
      tacChanged := false }

/-- A TAC write that leaves the timer as it was, or that finds it previously disabled, glitches nothing
(R144; the property R149 requires of every `P_TAC_GLITCH`, log entry 7): `T.UPDATE` does exactly what it
does without the signal. -/
def Obligations.HarmlessTacWrite : Prop :=
  ∀ (s : State) (cycles : Cycles) (oldIf : Byte),
    (s.tmr.oldTac.getLsbD 2 = false ∨ s.tmr.oldTac = s.tmr.tac) →
    exec (.tUpdate cycles oldIf) { s with tmr := { s.tmr with tacChanged := true } } =
      exec (.tUpdate cycles oldIf) { s with tmr := { s.tmr with tacChanged := false } }

/-- Step 6 (R146; decisions D13, D14) with nothing else pending: a terminated index stays; one that exceeds
the divisor increments TIMA once, also with the timer disabled, and terminates; any other advances by the
cycles; an enabled timer then counts from the TIMA so left (R147, the example of R131). Whole equation. -/
def Obligations.ResetIndexTracking : Prop :=
  ∀ (s : State) (cycles : Cycles) (oldIf : Byte), s.host.porDone = true → s.tmr.timaOverflow = false →
    s.tmr.divReset = false → s.tmr.tacChanged = false →
    ∀ (div : Nat) (r : CountResult), div = divisorOf s.tmr.tac →
    r = counted s.tmr.tac cycles s.tmr.timerCounter (s.tmr.tima +
      oneIf (s.tmr.divResetIndex ≠ -1 ∧ (div : Int) < s.tmr.divResetIndex + (cycles.toNat : Int))) →
    exec (.tUpdate cycles oldIf) s = .next { s with
      tmr := { s.tmr with
        tima := r.tima
        timerCounter := r.counter
        timaOverflow := r.wrapped
        divResetIndex :=
          if s.tmr.divResetIndex = -1 ∨ (div : Int) < s.tmr.divResetIndex + (cycles.toNat : Int)
          then -1 else s.tmr.divResetIndex + (cycles.toNat : Int)
        oscillator := advanced s.tmr cycles
        div := (advanced s.tmr cycles).extractLsb' 8 8
        oldTac := s.tmr.tac }
      host := { s.host with result := .irq r.wrapped } }

/-- The loop of step 7 (R147; decision D14) in closed form: the phase counter's quotient by the divisor is
added to TIMA where the sum stays below 256; else the loop ends at the round that finds 0xFF, with TIMA 0
and only the rounds up to it subtracted. -/
def Obligations.CountLoopClosedForm : Prop :=
  ∀ (div counter : Nat) (tima : Byte), 0 < div →
    countLoop countFuel div counter tima =
      if tima.toNat + counter / div < 256
      then ⟨counter % div, tima + BitVec.ofNat 8 (counter / div), false⟩
      else ⟨counter - (256 - tima.toNat) * div, 0, true⟩

/-- Step 7 (R147; decision D14) on a quiet, enabled timer: TIMA counts once per divisor of accumulated
cycles; a count that would pass 0xFF leaves TIMA 0, sets the overflow-delay flag, returns true, leaves IF
alone and keeps the remaining cycles. Whole equation. -/
def Obligations.CountingAtTheSelectedRate : Prop :=
  ∀ (s : State) (cycles : Cycles) (oldIf : Byte), s.host.porDone = true → quiet s.tmr →
    s.tmr.tac.getLsbD 2 = true →
    ∀ div n : Nat, div = Params.freqDiv (s.tmr.tac.extractLsb' 0 2) →
    n = (s.tmr.timerCounter + cycles.toNat) / div →
    exec (.tUpdate cycles oldIf) s = .next { s with
      tmr := { s.tmr with
        tima := if s.tmr.tima.toNat + n < 256 then s.tmr.tima + BitVec.ofNat 8 n else 0
        timerCounter :=
          if s.tmr.tima.toNat + n < 256 then (s.tmr.timerCounter + cycles.toNat) % div
          else s.tmr.timerCounter + cycles.toNat - (256 - s.tmr.tima.toNat) * div
        timaOverflow := decide (256 ≤ s.tmr.tima.toNat + n)
        oscillator := advanced s.tmr cycles
        div := (advanced s.tmr cycles).extractLsb' 8 8
        oldTac := s.tmr.tac }
      host := { s.host with result := .irq (decide (256 ≤ s.tmr.tima.toNat + n)) } }

/-- `T.UPDATE` in every state after `POR`, its eight steps together (R131, R141 to R148; decisions D8 to D10
and D12 to D14; the glitch predicate open, log entry 7, and both signals in one call in the listed order,
log entry 9): TIMA is reloaded, then goes up by at most one in each of steps 3, 4 and 6, and is then
counted. Whole equation. -/
def Obligations.UpdateInClosedForm : Prop :=
  ∀ (s : State) (cycles : Cycles) (oldIf : Byte), s.host.porDone = true →
    ∀ (loaded : Byte) (r : CountResult) (osc : Oscillator),
    loaded = (if s.tmr.timaOverflow = true ∧ s.tmr.tima = 0 then s.tmr.tma else s.tmr.tima) →
    r = counted s.tmr.tac cycles (phaseAfterReset s.tmr)
      (loaded + oneIf (resetBumps s.tmr) + oneIf (changeBumps tacGlitch s.tmr) +
        oneIf (indexBumps s.tmr cycles)) →
    osc = (if s.tmr.divReset then 0 else s.tmr.oscillator) + cycles.setWidth Params.oscW →
    exec (.tUpdate cycles oldIf) s = .next { s with
      tmr := { s.tmr with
        tima := r.tima
        timerCounter := r.counter
        timaOverflow := r.wrapped
        ifReg := if s.tmr.timaOverflow = true ∧ s.tmr.ifReg = oldIf then s.tmr.ifReg ||| 0x04#8
          else s.tmr.ifReg
        divReset := false
        tacChanged := false
        divResetIndex :=
          if indexAfterReset s.tmr = -1 ∨
            (divisorOf s.tmr.tac : Int) < indexAfterReset s.tmr + (cycles.toNat : Int)
          then -1 else indexAfterReset s.tmr + (cycles.toNat : Int)
        oscillator := osc
        div := osc.extractLsb' 8 8
        oldTac := s.tmr.tac }
      host := { s.host with result := .irq r.wrapped } }

/-- R163 (c), derived by the spec, in every state: an enabled `T.UPDATE` that returns false leaves less
than one divisor in the phase counter. -/
def Obligations.RemainderBelowTheDivisor : Prop :=
  ∀ (s t : State) (cycles : Cycles) (oldIf : Byte), exec (.tUpdate cycles oldIf) s = .next t →
    s.tmr.tac.getLsbD 2 = true → t.host.result = .irq false →
    t.tmr.timerCounter < Params.freqDiv (s.tmr.tac.extractLsb' 0 2)

/-- R163 (a), derived by the spec (conflict C6): over any sequence of `T.UPDATE` calls with no divider
reset pending, the oscillator advances by the total of the cycles modulo 65536, however they are cut, and
where its low byte was 0, DIV advances by the total divided by 256. -/
def Obligations.UpdatesAddUp : Prop :=
  ∀ (calls : List (Cycles × Byte)) (s : State), s.host.porDone = true → s.tmr.divReset = false →
    s.tmr.div = s.tmr.oscillator.extractLsb' 8 8 →
    ∃ t, runUpdates calls s = .next t ∧
      t.tmr.oscillator.toNat =
        (s.tmr.oscillator.toNat + (calls.map fun c => c.1.toNat).sum) % 65536 ∧
      (s.tmr.oscillator.toNat % 256 = 0 → t.tmr.div.toNat =
        (s.tmr.div.toNat + (calls.map fun c => c.1.toNat).sum / 256) % 256)

/-- Around a CPU instruction that does not write IF, a host that keeps the calling convention (R274, decision
D31) loses no request: where an overflow is pending and the operations between the sample and the `T.UPDATE`
write neither IF nor the overflow-delay flag, the request bit is set after it. The convention itself also
allows a `BUS.WR8 IF` there, and that can drop the request (R245, R278, program P2). -/
def Obligations.RequestKeptWhereTheWindowDoesNotWriteIf : Prop :=
  ∀ (s t : State) (cycles : Cycles) (ops : List Instr), s.tmr.timaOverflow = true →
    (∀ i ∈ ops, keepsRequest i = true) → tStep cycles ops s = .next t →
    t.tmr.ifReg = s.tmr.ifReg ||| 0x04#8

/-! ### Bus cells -/

/-- `BUS.RD8` of the five cells (R154, R156; the results of R152, R153, R155): the cell's address selects
the read, the read completes with the cell's value, and no state changes. Whole equations. -/
def Obligations.BusReads : Prop :=
  ∀ s : State, s.host.porDone = true →
    (busRead Params.addrDiv = .busRd8Div ∧
      exec .busRd8Div s = .next { s with host := { s.host with result := .byte s.tmr.div } }) ∧
    (busRead Params.addrTima = .busRd8Tima ∧
      exec .busRd8Tima s = .next { s with host := { s.host with result := .byte s.tmr.tima } }) ∧
    (busRead Params.addrTma = .busRd8Tma ∧
      exec .busRd8Tma s = .next { s with host := { s.host with result := .byte s.tmr.tma } }) ∧
    (busRead Params.addrTac = .busRd8Tac ∧
      exec .busRd8Tac s = .next { s with host := { s.host with result := .byte s.tmr.tac } }) ∧
    (busRead Params.addrIf = .busRd8If ∧
      exec .busRd8If s = .next { s with host := { s.host with result := .byte s.tmr.ifReg } })

/-- `BUS.WR8 TIMA, v` and `BUS.WR8 TMA, v` (R158, R159): the byte is stored whole, no signal is raised, the
overflow-delay flag stays (whole equations); and in the overflow-delay window a non-zero byte written to
TIMA cancels the reload, while a byte written to TMA is the one reloaded. -/
def Obligations.CounterWrites : Prop :=
  ∀ (s : State) (v : Byte), s.host.porDone = true →
    exec (.busWr8Tima v) s = .next { s with
      tmr := { s.tmr with tima := v }, host := { s.host with result := .none } } ∧
    exec (.busWr8Tma v) s = .next { s with
      tmr := { s.tmr with tma := v }, host := { s.host with result := .none } } ∧
    ∀ (nested : Bool) (oldIf : Byte), s.tmr.timaOverflow = true →
      (v ≠ 0 → (step1PendingReload nested oldIf { s.tmr with tima := v }).tima = v) ∧
      (s.tmr.tima = 0 → (step1PendingReload nested oldIf { s.tmr with tma := v }).tima = v)

/-- `BUS.WR8` of DIV, TAC and IF (R157, R160, R161; decisions D4 to D7): a DIV write discards the byte and
raises its signal, a TAC write stores three bits and raises its signal on every write, an IF write stores
five bits. Whole equations. -/
def Obligations.SignalWrites : Prop :=
  ∀ (s : State) (v : Byte), s.host.porDone = true →
    exec (.busWr8Div v) s = .next { s with
      tmr := { s.tmr with divReset := true }, host := { s.host with result := .none } } ∧
    exec (.busWr8Tac v) s = .next { s with
      tmr := { s.tmr with tac := v &&& 0x07#8, tacChanged := true }
      host := { s.host with result := .none } } ∧
    exec (.busWr8If v) s = .next { s with
      tmr := { s.tmr with ifReg := v &&& 0x1F#8 }, host := { s.host with result := .none } }

/-- The DIV hazard (R277, derived by the spec; decision D6): a read between a DIV write and the next
`T.UPDATE` still gives the old byte; after that `T.UPDATE` the divider holds that call's cycles alone. -/
def Obligations.DivWriteIsSeenOneUpdateLate : Prop :=
  ∀ (s : State) (v oldIf : Byte) (cycles : Cycles), s.host.porDone = true →
    ∃ t u, runOps [.busWr8Div v, .busRd8Div] s = .next t ∧ t.host.result = .byte s.tmr.div ∧
      exec (.tUpdate cycles oldIf) t = .next u ∧
      u.tmr.oscillator.toNat = cycles.toNat ∧ u.tmr.div = 0

/-- R162: a bus access to an address that is none of the five is no operation of this block, which refuses
it; a refusal is no next state, so no state of the block changes. -/
def Obligations.ForeignBusAddressesRefused : Prop :=
  ∀ (s : State) (a : BusAddr) (v : Byte), s.host.porDone = true →
    a ∉ [Params.addrDiv, Params.addrTima, Params.addrTma, Params.addrTac, Params.addrIf] →
    busRead a = .busRd8Other a ∧ busWrite a v = .busWr8Other a v ∧
    exec (.busRd8Other a) s = .refused (.busAddressNotOwned a) ∧
    exec (.busWr8Other a v) s = .refused (.busAddressNotOwned a)

/-! ### The two devices side by side -/

/-- The frame of every operation (R77, R256): the timer's and the bus's leave the video interface alone,
the video interface's leave the timer and the bus cells alone, none writes DRAM or the configuration, and
none takes an event. -/
def Obligations.DevicesShareNoState : Prop :=
  ∀ (i : Instr) (s t : State), exec i s = .next t →
    (isTimerOp i = true → t.vi = s.vi) ∧ (isVideoOp i = true → t.tmr = s.tmr) ∧
    t.env = s.env ∧ (∀ a, Memory.read t.env.dram a = Memory.read s.env.dram a) ∧
    t.host.inbox = s.host.inbox

/-- What the timer does and answers depends on the timer alone (R256): from two states that agree on it, a
timer or bus operation leaves the same timer and the same result, whatever the video interface, DRAM and
the inbox hold. -/
def Obligations.TimerSeesOnlyTheTimer : Prop :=
  ∀ (i : Instr) (s u t : State), isTimerOp i = true → s.tmr = u.tmr →
    s.host.porDone = u.host.porDone → exec i s = .next t →
    ∃ w, exec i u = .next w ∧ w.tmr = t.tmr ∧ w.host.result = t.host.result

/-- R62 (e), R88, R171: the frame (its bytes, its size, the computed size, the blacked-out flag) changes
only in `VI.REDRAW` and `POR`, and `frame_count` only in a write of ORIGIN and `POR`. -/
def Obligations.FrameChangesOnlyAtARedraw : Prop :=
  ∀ (i : Instr) (s t : State), exec i s = .next t → i ≠ .por →
    (i ≠ .viRedraw → t.vi.fb = s.vi.fb ∧ t.vi.fbW = s.vi.fbW ∧ t.vi.fbH = s.vi.fbH ∧
      t.vi.outWidth = s.vi.outWidth ∧ t.vi.outHeight = s.vi.outHeight ∧
      t.vi.blackedOut = s.vi.blackedOut) ∧
    ((∀ v, i ≠ .viWr32Origin v) → t.vi.frameCount = s.vi.frameCount)

/-! ### Video registers -/

/-- `VI.RD32` of the eight registers with state (R173, R175, R177, R179, R186, R188, R190, R192): the read
completes with the stored value, `diag` false, and no state changes; a stored scale of 0 reads as 0. Whole
equations. -/
def Obligations.VideoRegisterReads : Prop :=
  ∀ s : State, s.host.porDone = true →
    exec .viRd32Ctrl s = .next (wordReturned s s.vi.ctrl) ∧
    exec .viRd32Origin s = .next (wordReturned s (s.vi.origin.setWidth 32)) ∧
    exec .viRd32Width s = .next (wordReturned s (s.vi.viWidth.setWidth 32)) ∧
    exec .viRd32VIntr s = .next (wordReturned s (s.vi.vIntr.setWidth 32)) ∧
    exec .viRd32HVideo s =
      .next (wordReturned s (s.vi.hEnd.setWidth 32 ||| (s.vi.hStart.setWidth 32 <<< 16))) ∧
    exec .viRd32VVideo s =
      .next (wordReturned s (s.vi.vEnd.setWidth 32 ||| (s.vi.vStart.setWidth 32 <<< 16))) ∧
    exec .viRd32XScale s = .next (wordReturned s (s.vi.xScale.setWidth 32)) ∧
    exec .viRd32YScale s = .next (wordReturned s (s.vi.yScale.setWidth 32))

/-- R195, R196: an address that is none of the fourteen, misaligned ones included, selects the unmapped
access; a read gives (0, `diag` true), a write gives `diag` true, and no state changes. Whole equations. -/
def Obligations.UnmappedVideoAddresses : Prop :=
  ∀ (s : State) (a v : Word), s.host.porDone = true →
    (∀ k : Nat, k < 14 → a ≠ Params.viBase + BitVec.ofNat 32 (4 * k)) →
    viRead a = .viRd32Unmapped a ∧ viWrite a v = .viWr32Unmapped a v ∧
    exec (.viRd32Unmapped a) s = .next { s with host := { s.host with result := .word 0 true } } ∧
    exec (.viWr32Unmapped a v) s = .next { s with host := { s.host with result := .diag true } }

/-- R193, R194 (decision D19): BURST, V_SYNC, H_SYNC, H_SYNC_LEAP and V_BURST accept a write that changes
nothing, `diag` false, and read as (0, `diag` true). Whole equations. -/
def Obligations.StatusOnlyRegisters : Prop :=
  ∀ (s : State) (v : Word), s.host.porDone = true →
    (∀ i ∈ [Instr.viWr32Burst v, .viWr32VSync v, .viWr32HSync v, .viWr32HSyncLeap v, .viWr32VBurst v],
      exec i s = .next { s with host := { s.host with result := .diag false } }) ∧
    (∀ i ∈ [Instr.viRd32Burst, .viRd32VSync, .viRd32HSync, .viRd32HSyncLeap, .viRd32VBurst],
      exec i s = .next { s with host := { s.host with result := .word 0 true } })

/-- R184 (decision D20): a read of V_CURRENT completes with some 10-bit line of the environment's choice
(a free value, log entry 6), `diag` false; no state of the block changes, the draw is used up. -/
def Obligations.CurrentLineIsAnInput : Prop :=
  ∀ s : State, s.host.porDone = true →
    ∃ line : BitVec 10, exec .viRd32VCurrent s = .next { s with
      host := { s.host with result := .word (line.setWidth 32) false, draws := s.host.draws + 1 } }

/-- `VI.WR32` of CTRL, WIDTH, V_INTR, H_VIDEO, V_VIDEO, X_SCALE, Y_SCALE (R172, R176, R178, R185, R187,
R189, R191): the write completes with `diag` false, the register holds the written bits its rule keeps,
and nothing else changes. -/
def Obligations.VideoRegisterWrites : Prop :=
  ∀ (s : State) (v : Word), s.host.porDone = true →
    exec (.viWr32Ctrl v) s = .next (registerWritten s { s.vi with ctrl := v &&& Params.ctrlMask }) ∧
    (∃ w : BitVec 12, exec (.viWr32Width v) s = .next (registerWritten s { s.vi with viWidth := w }) ∧
      w.toNat = (v &&& Params.widthMask).toNat) ∧
    (∃ w : BitVec 10, exec (.viWr32VIntr v) s = .next (registerWritten s { s.vi with vIntr := w }) ∧
      w.toNat = (v &&& Params.vintrMask).toNat) ∧
    exec (.viWr32HVideo v) s = .next (registerWritten s
      { s.vi with hStart := v.extractLsb' 16 10, hEnd := v.extractLsb' 0 10 }) ∧
    exec (.viWr32VVideo v) s = .next (registerWritten s
      { s.vi with vStart := v.extractLsb' 16 10, vEnd := v.extractLsb' 0 10 }) ∧
    (∃ w : BitVec 12, exec (.viWr32XScale v) s = .next (registerWritten s { s.vi with xScale := w }) ∧
      w.toNat = (v &&& Params.scaleMask).toNat) ∧
    (∃ w : BitVec 12, exec (.viWr32YScale v) s = .next (registerWritten s { s.vi with yScale := w }) ∧
      w.toNat = (v &&& Params.scaleMask).toNat)

/-- The pixel format a CTRL write selects (R113, R172; the codes are decision D18): bits 1:0 of the written
word, 0 disabled, 2 the 16-bit and 3 the 32-bit format, and the one code left is any other format. -/
def Obligations.FormatCodes : Prop :=
  ∀ v : Word,
    (pixelFormat (v &&& Params.ctrlMask) = .disabled ↔ v.toNat % 4 = 0) ∧
    (pixelFormat (v &&& Params.ctrlMask) = .other ↔ v.toNat % 4 = 1) ∧
    (pixelFormat (v &&& Params.ctrlMask) = .rgb16 ↔ v.toNat % 4 = 2) ∧
    (pixelFormat (v &&& Params.ctrlMask) = .rgba32 ↔ v.toNat % 4 = 3)

/-- `VI.WR32 ORIGIN, v` (R174; decisions D28, D29): the low 24 bits become the source offset, the source is
bound where DRAM is attached, the frame-submission counter advances modulo 2^32 on every write. Whole
equation. -/
def Obligations.OriginWrite : Prop :=
  ∀ (s : State) (v : Word), s.host.porDone = true →
    ∃ (org : BitVec 24) (count : Word), exec (.viWr32Origin v) s = .next { s with
      vi := { s.vi with
        origin := org, srcBound := s.vi.srcBound || s.env.dramAttached, frameCount := count }
      host := { s.host with result := .diag false } } ∧
      org.toNat = v.toNat % 2 ^ 24 ∧ count.toNat = (s.vi.frameCount.toNat + 1) % 2 ^ 32

/-- R183: a write of V_CURRENT discards its word and clears the pending vertical interrupt condition;
clearing a clear condition changes nothing. Whole equations. -/
def Obligations.CurrentLineWriteClears : Prop :=
  ∀ (s : State) (v : Word), s.host.porDone = true →
    exec (.viWr32VCurrent v) s = .next { s with
      vi := { s.vi with viIrqPending := false }, host := { s.host with result := .diag false } } ∧
    (s.vi.viIrqPending = false →
      exec (.viWr32VCurrent v) s = .next { s with host := { s.host with result := .diag false } })

/-- R197, R251 (decision D20): `VI.VINT` makes the condition pending and does nothing else; a second one
changes nothing. Whole equation. -/
def Obligations.VerticalInterruptBecomesPending : Prop :=
  ∀ s : State, s.host.porDone = true →
    ∃ t, exec .viVint s = .next t ∧
      t = { s with vi := { s.vi with viIrqPending := true }, host := { s.host with result := .none } } ∧
      exec .viVint t = .next t

/-- R198, derived by the spec: for every register with state and every word, a write followed by a read
returns the word under the register's mask, `diag` false; for the extents the mask is 0x03FF03FF. -/
def Obligations.WriteThenRead : Prop :=
  ∀ (s : State) (v : Word), s.host.porDone = true →
    ∀ p ∈ [(Instr.viWr32Ctrl v, Instr.viRd32Ctrl, 0x0001FFFF#32),
        (.viWr32Origin v, .viRd32Origin, 0x00FFFFFF#32), (.viWr32Width v, .viRd32Width, 0x00000FFF#32),
        (.viWr32VIntr v, .viRd32VIntr, 0x000003FF#32), (.viWr32HVideo v, .viRd32HVideo, 0x03FF03FF#32),
        (.viWr32VVideo v, .viRd32VVideo, 0x03FF03FF#32), (.viWr32XScale v, .viRd32XScale, 0x00000FFF#32),
        (.viWr32YScale v, .viRd32YScale, 0x00000FFF#32)],
      ∃ t, runOps [p.1, p.2.1] s = .next t ∧ t.host.result = .word (v &&& p.2.2) false

/-! ### VI.REDRAW -/

/-- R223 (decision D22): a redraw is refused for its extents exactly where an end is below its start. -/
def Obligations.RedrawRefusesReversedExtents : Prop :=
  ∀ s : State, s.host.porDone = true →
    (exec .viRedraw s = .refused .extentsReversed ↔ ¬ extentsOk s.vi)

/-- R210, R211 (decision D21): a redraw that is done returns true, computes both dimensions by the formula
whatever branch it takes, within 4091 by 2043, and changes nothing but them, the buffer, its size and the
blacked-out flag. -/
def Obligations.RedrawDimensionsAndFrame : Prop :=
  ∀ s t : State, exec .viRedraw s = .next t →
    t.vi = { s.vi with
      outWidth := widthOf s.vi, outHeight := heightOf s.vi
      fbW := t.vi.fbW, fbH := t.vi.fbH, fb := t.vi.fb, blackedOut := t.vi.blackedOut } ∧
    widthOf s.vi ≤ 4091 ∧ heightOf s.vi ≤ 2043 ∧
    t.tmr = s.tmr ∧ t.env = s.env ∧ hostAnswered s t (.redraw true)

/-- R212, R213 (decisions D21, D22): under the blacked-out condition a redraw completes, keeps the
buffer's size, zeroes its bytes if it was rendering and writes none if it was blacked out already (whole
equation), and in a state that meets the video invariant the frame is then all zero. -/
def Obligations.RedrawBlacksOut : Prop :=
  ∀ s : State, s.host.porDone = true → extentsOk s.vi → blackout s.vi →
    ∃ t, exec .viRedraw s = .next t ∧
      t = { s with
        vi := { s.vi with
          outWidth := widthOf s.vi, outHeight := heightOf s.vi, blackedOut := true
          fb := if s.vi.blackedOut then s.vi.fb else List.replicate s.vi.fb.length 0 }
        host := { s.host with result := .redraw true } } ∧
      (VideoInv s.vi → t.vi.fb = List.replicate s.vi.fb.length 0)

/-- R212, R219: after a redraw the blacked-out flag is the blacked-out condition of that call, on the
dimensions that call computed, whatever the flag was before; no other operation but `POR` moves it. -/
def Obligations.BlackedOutIsTheCondition : Prop :=
  (∀ s t : State, exec .viRedraw s = .next t →
    (t.vi.blackedOut = true ↔
      (t.vi.outWidth = 0 ∨ t.vi.outHeight = 0 ∨ s.vi.srcBound = false ∨
        pixelFormat s.vi.ctrl = .disabled))) ∧
  (∀ (i : Instr) (s t : State), exec i s = .next t → i ≠ .viRedraw → i ≠ .por →
    t.vi.blackedOut = s.vi.blackedOut)

/-- R215, R222 (decision D23): in the 32-bit format, with the window inside DRAM, a redraw completes, the
buffer has the computed size, and framebuffer byte k of pixel (x, y) is byte k of its source pixel. -/
def Obligations.RedrawCopies32 : Prop :=
  ∀ s : State, s.host.porDone = true → extentsOk s.vi → ¬ blackout s.vi → s.vi.ctrl.toNat % 4 = 3 →
    s.env.dramAttached = true → windowEndOf s.vi 4 ≤ s.env.dramSize →
    ∃ t, exec .viRedraw s = .next t ∧ t.vi.fbW = widthOf s.vi ∧ t.vi.fbH = heightOf s.vi ∧
      t.vi.fb.length = widthOf s.vi * heightOf s.vi * 4 ∧
      ∀ x y k, x < widthOf s.vi → y < heightOf s.vi → k < 4 →
        t.vi.fb[(y * widthOf s.vi + x) * 4 + k]? =
          some (Memory.read s.env.dram (pixelAt s.vi 4 x y + k))

/-- R216, R118, R222 (decisions D23 to D25, conflict C2): in the 16-bit format, with the window inside
DRAM, a redraw completes, and pixel (x, y) is the big-endian 5-5-5-1 source pixel with each channel c
expanded to 8c + c/4 and alpha 255. -/
def Obligations.RedrawConverts16 : Prop :=
  ∀ s : State, s.host.porDone = true → extentsOk s.vi → ¬ blackout s.vi → s.vi.ctrl.toNat % 4 = 2 →
    s.env.dramAttached = true → windowEndOf s.vi 2 ≤ s.env.dramSize →
    ∃ t, exec .viRedraw s = .next t ∧ t.vi.fbW = widthOf s.vi ∧ t.vi.fbH = heightOf s.vi ∧
      t.vi.fb.length = widthOf s.vi * heightOf s.vi * 4 ∧
      ∀ x y, x < widthOf s.vi → y < heightOf s.vi →
        ∀ pix : Nat, pix = (Memory.read s.env.dram (pixelAt s.vi 2 x y)).toNat * 256 +
            (Memory.read s.env.dram (pixelAt s.vi 2 x y + 1)).toNat →
        ∀ ch : Nat → Byte, (ch = fun c => BitVec.ofNat 8 (8 * (c % 32) + c % 32 / 4)) →
        t.vi.fb[(y * widthOf s.vi + x) * 4]? = some (ch (pix / 2048)) ∧
        t.vi.fb[(y * widthOf s.vi + x) * 4 + 1]? = some (ch (pix / 64)) ∧
        t.vi.fb[(y * widthOf s.vi + x) * 4 + 2]? = some (ch (pix / 2)) ∧
        t.vi.fb[(y * widthOf s.vi + x) * 4 + 3]? = some 255#8

/-- R217, R214 (decision D26): in any other format a redraw completes whatever DRAM is, the buffer takes
the computed size, keeps its bytes up to it and is zero beyond them. -/
def Obligations.RedrawKeepsOtherFormats : Prop :=
  ∀ s : State, s.host.porDone = true → extentsOk s.vi → ¬ blackout s.vi → s.vi.ctrl.toNat % 4 = 1 →
    ∃ t, exec .viRedraw s = .next t ∧ t.vi.fbW = widthOf s.vi ∧ t.vi.fbH = heightOf s.vi ∧
      t.vi.fb.length = widthOf s.vi * heightOf s.vi * 4 ∧
      ∀ i, i < widthOf s.vi * heightOf s.vi * 4 → t.vi.fb[i]? = some (s.vi.fb.getD i 0)

/-- R78, R222 (decision D28): in the 32-bit and the 16-bit format a redraw is refused for its source
exactly where its window is not inside attached DRAM; that window ends with the last pixel's last byte, and
every other pixel lies inside it. -/
def Obligations.RedrawRefusesOutsideDram : Prop :=
  ∀ (s : State) (bpp : Nat), s.host.porDone = true → extentsOk s.vi → ¬ blackout s.vi →
    (s.vi.ctrl.toNat % 4 = 3 ∧ bpp = 4 ∨ s.vi.ctrl.toNat % 4 = 2 ∧ bpp = 2) →
    (exec .viRedraw s = .refused .sourceOutsideDram ↔
      (s.env.dramAttached = false ∨ s.env.dramSize < windowEndOf s.vi bpp)) ∧
    pixelAt s.vi bpp (widthOf s.vi - 1) (heightOf s.vi - 1) + bpp = windowEndOf s.vi bpp ∧
    ∀ x y, x < widthOf s.vi → y < heightOf s.vi → pixelAt s.vi bpp x y + bpp ≤ windowEndOf s.vi bpp

/-- R221, derived by the spec: a second redraw with nothing in between changes nothing at all. -/
def Obligations.RedrawTwiceIsRedrawOnce : Prop :=
  ∀ s t : State, exec .viRedraw s = .next t → exec .viRedraw t = .next t

/-- A redraw depends on the video interface and on the bytes of its source window only (R210, R215, R216,
R222): from two states that agree on them and on the DRAM configuration it leaves the same video
interface. -/
def Obligations.RedrawReadsOnlyItsWindow : Prop :=
  ∀ s u t : State, s.vi = u.vi → s.host.porDone = u.host.porDone →
    s.env.dramAttached = u.env.dramAttached → s.env.dramSize = u.env.dramSize →
    (∀ a, s.vi.origin.toNat ≤ a →
      a < windowEndOf s.vi (if s.vi.ctrl.toNat % 4 = 3 then 4 else 2) →
      Memory.read s.env.dram a = Memory.read u.env.dram a) →
    exec .viRedraw s = .next t → ∃ w, exec .viRedraw u = .next w ∧ w.vi = t.vi

/-- The expansion of R216, read as arithmetic: 8c + c/4, from 0 at 0 to 255 at 31, strictly increasing. -/
def Obligations.ExpansionTable : Prop :=
  exp5 0#5 = 0#8 ∧ exp5 31#5 = 0xFF#8 ∧ exp5 16#5 = 0x84#8 ∧
  ∀ c d : BitVec 5, (exp5 c).toNat = 8 * c.toNat + c.toNat / 4 ∧
    (c.toNat < d.toNat → (exp5 c).toNat < (exp5 d).toNat)

/-! ### Invariants -/

/-- The invariant of R45 and R62, and DRAM's canonical form, hold at reset. The values of `env` there are
the model's choice (log entries 4 and 5). -/
def Obligations.ResetMeetsTheInvariant : Prop := Inv State.reset

/-- Every step keeps the invariant (R45 (a), (b), (c), (e); R62 (a), (b), (c); R163 (e); the ranges of
R211; DRAM's canonical form), from every state that meets it. -/
def Obligations.StepKeepsTheInvariant : Prop :=
  ∀ s t : State, Inv s → step s = .next t → Inv t

/-- Every parameter of R5 and R6 that has a number or a truth value for its default is at it (decisions D2
to D5, D10, D15, D17, D18, D21, D24, D25, D27, D29; log entry 8): the five bus addresses, the divisors, the
bit and masks of the timer, the widths, the video addresses, masks and codes, the scaler, the pixel layout,
the first frame size. `P_TAC_GLITCH`, `P_DRAM_ATTACHED` and `P_DRAM_SIZE` are open. -/
def Obligations.ParametersAtTheirDefaults : Prop :=
  (Params.addrDiv = 0xFF04#16 ∧ Params.addrTima = 0xFF05#16 ∧ Params.addrTma = 0xFF06#16 ∧
    Params.addrTac = 0xFF07#16 ∧ Params.addrIf = 0xFF0F#16) ∧
  (Params.freqDiv 0 = 1024 ∧ Params.freqDiv 1 = 16 ∧ Params.freqDiv 2 = 64 ∧ Params.freqDiv 3 = 256) ∧
  (Params.timerIfBit = 2 ∧ Params.ifMask = 0x1F#8 ∧ Params.tacMask = 0x07#8 ∧
    Params.ifRaiseNested = false) ∧
  (Params.busAddrW = 16 ∧ Params.oscW = 16 ∧ Params.cyclesW = 8 ∧ Params.viWordW = 32 ∧
    Params.fmtW = 2 ∧ Params.framecntW = 32) ∧
  (Params.viBase = 0x04400000#32 ∧
    [Params.viCtrl, Params.viOrigin, Params.viWidth, Params.viVIntr, Params.viVCurrent, Params.viBurst,
      Params.viVSync, Params.viHSync, Params.viHSyncLeap, Params.viHVideo, Params.viVVideo,
      Params.viVBurst, Params.viXScale, Params.viYScale] =
    [0x04400000#32, 0x04400004#32, 0x04400008#32, 0x0440000C#32, 0x04400010#32, 0x04400014#32,
      0x04400018#32, 0x0440001C#32, 0x04400020#32, 0x04400024#32, 0x04400028#32, 0x0440002C#32,
      0x04400030#32, 0x04400034#32]) ∧
  (Params.ctrlMask = 0x0001FFFF#32 ∧ Params.originMask = 0x00FFFFFF#32 ∧ Params.widthMask = 0xFFF#32 ∧
    Params.vintrMask = 0x3FF#32 ∧ Params.extentMask = 0x3FF#32 ∧ Params.scaleMask = 0xFFF#32) ∧
  (Params.fmtLsb = 0 ∧ Params.fmtDisabled = 0#2 ∧ Params.fmt16 = 2#2 ∧ Params.fmt32 = 3#2 ∧
    Params.interlaceBit = 6) ∧
  (Params.scaleShift = 10 ∧ Params.scaleNeutral = 1024) ∧
  (Params.pix16BigEndian = true ∧ Params.pix16RLsb = 11 ∧ Params.pix16GLsb = 6 ∧ Params.pix16BLsb = 1 ∧
    Params.alphaOpaque = 0xFF#8) ∧
  (Params.fbResetW = 0 ∧ Params.fbResetH = 0)
end

