-- ==== Sys2Proof/Laws/Decode.lean ====
section
/-! SUPPORT. The fields of a packed descriptor, and a descriptor as the pack of its fields (R100). -/

namespace Sys2Proof

/-- Bit by bit, a packed descriptor is its four fields (R100). -/
theorem getLsbD_pack (op aux : Byte) (addr data : Word) (i : Nat) :
    (pack op aux addr data).getLsbD i =
      if i < 32 then data.getLsbD i else if i < 64 then addr.getLsbD (i - 32)
      else if i < 72 then aux.getLsbD (i - 64) else op.getLsbD (i - 72) := by
  have h : (pack op aux addr data).getLsbD i
      = BitVec.getLsbD (w := 8 + 8 + 32 + 32) (op ++ aux ++ addr ++ data) i := rfl
  rw [h, BitVec.getLsbD_append, BitVec.getLsbD_append, BitVec.getLsbD_append]
  by_cases h1 : i < 32
  · simp [h1]
  by_cases h2 : i < 64
  · have : i - 32 < 32 := by omega
    simp [h1, h2, this]
  have h3 : ¬ i - 32 < 32 := by omega
  by_cases h4 : i < 72
  · have h5 : i - 32 - 32 < 8 := by omega
    have h6 : i - 32 - 32 = i - 64 := by omega
    rw [h6] at h5
    simp [h1, h2, h3, h4, h5, h6]
  · have h5 : ¬ i - 64 < 8 := by omega
    have h6 : i - 32 - 32 = i - 64 := by omega
    have h7 : i - 64 - 8 = i - 72 := by omega
    simp [h1, h2, h3, h4, h5, h6, h7]

@[simp] theorem opField_pack (op aux : Byte) (addr data : Word) :
    opField (pack op aux addr data) = op := by
  refine BitVec.eq_of_getLsbD_eq fun i hi => ?_
  have h1 : ¬ 72 + i < 32 := by omega
  have h2 : ¬ 72 + i < 64 := by omega
  have h3 : ¬ 72 + i < 72 := by omega
  simp [opField, getLsbD_pack, hi, h1, h2, h3]

@[simp] theorem auxField_pack (op aux : Byte) (addr data : Word) :
    auxField (pack op aux addr data) = aux := by
  refine BitVec.eq_of_getLsbD_eq fun i hi => ?_
  have h1 : ¬ 64 + i < 32 := by omega
  have h2 : ¬ 64 + i < 64 := by omega
  have h3 : 64 + i < 72 := by omega
  simp [auxField, getLsbD_pack, hi, h1, h2, h3]

@[simp] theorem addrField_pack (op aux : Byte) (addr data : Word) :
    addrField (pack op aux addr data) = addr := by
  refine BitVec.eq_of_getLsbD_eq fun i hi => ?_
  have h1 : ¬ 32 + i < 32 := by omega
  have h2 : 32 + i < 64 := by omega
  simp [addrField, getLsbD_pack, hi, h1, h2]

@[simp] theorem dataField_pack (op aux : Byte) (addr data : Word) :
    dataField (pack op aux addr data) = data := by
  refine BitVec.eq_of_getLsbD_eq fun i hi => ?_
  simp [dataField, getLsbD_pack, hi]

/-- Every descriptor is the pack of its fields. -/
theorem pack_fields (od : Descriptor) :
    pack (opField od) (auxField od) (addrField od) (dataField od) = od := by
  refine BitVec.eq_of_getLsbD_eq fun i hi => ?_
  rw [getLsbD_pack]
  simp only [opField, auxField, addrField, dataField, BitVec.getLsbD_extractLsb']
  split
  · simp [*]
  · split
    · have h1 : i - 32 < 32 := by omega
      have h2 : 32 + (i - 32) = i := by omega
      simp [h1, h2]
    · split
      · have h1 : i - 64 < 8 := by omega
        have h2 : 64 + (i - 64) = i := by omega
        simp [h1, h2]
      · have h1 : i - 72 < 8 := by omega
        have h2 : 72 + (i - 72) = i := by omega
        simp [h1, h2]

/-- Two packed descriptors are equal only where their fields are. -/
theorem pack_inj {op op' aux aux' : Byte} {addr addr' data data' : Word} :
    pack op aux addr data = pack op' aux' addr' data' ↔
      op = op' ∧ aux = aux' ∧ addr = addr' ∧ data = data' := by
  constructor
  · intro h
    exact ⟨by simpa using congrArg opField h, by simpa using congrArg auxField h,
      by simpa using congrArg addrField h, by simpa using congrArg dataField h⟩
  · rintro ⟨rfl, rfl, rfl, rfl⟩
    rfl

/-- The bitwise and of packed descriptors, field by field. -/
theorem pack_and (op op' aux aux' : Byte) (addr addr' data data' : Word) :
    pack op aux addr data &&& pack op' aux' addr' data' =
      pack (op &&& op') (aux &&& aux') (addr &&& addr') (data &&& data') := by
  refine BitVec.eq_of_getLsbD_eq fun i _ => ?_
  simp only [BitVec.getLsbD_and, getLsbD_pack]
  split
  · rfl
  · split
    · rfl
    · split <;> rfl

/-! ### Words of which only the low part is written -/

@[simp] theorem busAddrOf_setWidth (a : BusAddr) : busAddrOf (a.setWidth 32) = a := by
  show (a.setWidth 32).extractLsb' 0 16 = a
  refine BitVec.eq_of_getLsbD_eq fun i hi => ?_
  simp [BitVec.getLsbD_setWidth, hi]
  omega

@[simp] theorem aboveBusAddr_setWidth (a : BusAddr) : aboveBusAddr (a.setWidth 32) = 0 := by
  show (a.setWidth 32).extractLsb' 16 16 = 0#16
  refine BitVec.eq_of_getLsbD_eq fun i hi => ?_
  simp [BitVec.getLsbD_extractLsb', BitVec.getLsbD_setWidth]

@[simp] theorem low8_setWidth (v : Byte) : (v.setWidth 32).extractLsb' 0 8 = v := by
  refine BitVec.eq_of_getLsbD_eq fun i hi => ?_
  simp [BitVec.getLsbD_setWidth, hi]
  omega

@[simp] theorem high24_setWidth (v : Byte) : (v.setWidth 32).extractLsb' 8 24 = 0#24 := by
  refine BitVec.eq_of_getLsbD_eq fun i hi => ?_
  simp [BitVec.getLsbD_extractLsb', BitVec.getLsbD_setWidth]

/-- The must-be-zero part of a bus operation's `addr` field, as bits of the descriptor (R100, R103 (b)). -/
theorem aboveBusAddr_addrField (od : Descriptor) : aboveBusAddr (addrField od) = od.extractLsb' 48 16 := by
  change (od.extractLsb' 32 32).extractLsb' 16 16 = _
  refine BitVec.eq_of_getLsbD_eq fun i hi => ?_
  have h : 16 + i < 32 := by omega
  have h' : 32 + (16 + i) = 48 + i := by omega
  simp [hi, h, h']

/-- The `aux` field is the `cycles` operand, bit for bit (R102). -/
@[simp] theorem setWidth_cycles (aux : Byte) : (aux.setWidth Params.cyclesW).setWidth 8 = aux := by
  simp

/-- A word whose upper half is zero is the widening of its lower half. -/
theorem setWidth_busAddrOf {w : Word} (h : aboveBusAddr w = 0) :
    (busAddrOf w).setWidth 32 = w := by
  change w.extractLsb' 16 16 = 0#16 at h
  show (w.extractLsb' 0 16).setWidth 32 = w
  refine BitVec.eq_of_getLsbD_eq fun i hi => ?_
  by_cases h1 : i < 16
  · simp [h1, hi]
  · have := congrArg (fun x : BitVec 16 => x.getLsbD (i - 16)) h
    have h2 : i - 16 < 16 := by omega
    have h3 : 16 + (i - 16) = i := by omega
    simp [h2, h3] at this
    simp [BitVec.getLsbD_setWidth, BitVec.getLsbD_extractLsb', h1, this]

/-- A word whose upper 24 bits are zero is the widening of its low byte. -/
theorem setWidth_low8 {w : Word} (h : w.extractLsb' 8 24 = 0#24) :
    (w.extractLsb' 0 8).setWidth 32 = w := by
  refine BitVec.eq_of_getLsbD_eq fun i hi => ?_
  by_cases h1 : i < 8
  · simp [h1, hi]
  · have := congrArg (fun x : BitVec 24 => x.getLsbD (i - 8)) h
    have h2 : i - 8 < 24 := by omega
    have h3 : 8 + (i - 8) = i := by omega
    simp [h2, h3] at this
    simp [BitVec.getLsbD_setWidth, BitVec.getLsbD_extractLsb', h1, this]

/-! ### What each format decodes to (R101, R104) -/

theorem decode_encodeBusRead (a : BusAddr) : decode (encodeBusRead a) = .ok (busRead a) := by
  simp [encodeBusRead, decode, whenZero]

theorem decode_encodeBusWrite (a : BusAddr) (v : Byte) :
    decode (encodeBusWrite a v) = .ok (busWrite a v) := by
  simp [encodeBusWrite, decode, whenZero]

theorem decode_encodeViRead (a : Word) : decode (encodeViRead a) = .ok (viRead a) := by
  simp [encodeViRead, decode, whenZero]

theorem decode_encodeViWrite (a v : Word) : decode (encodeViWrite a v) = .ok (viWrite a v) := by
  simp [encodeViWrite, decode, whenZero]

theorem decode_encodeUpdate (cycles : Cycles) (oldIf : Byte) :
    decode (pack 0x02#8 (cycles.setWidth 8) 0#32 (oldIf.setWidth 32)) = .ok (.tUpdate cycles oldIf) := by
  simp [decode, whenZero]

theorem busRead_other {a : BusAddr} (h : busOwned a = false) : busRead a = .busRd8Other a := by
  simp only [busOwned, Bool.or_eq_false_iff, beq_eq_false_iff_ne] at h
  simp [busRead, h]

theorem busWrite_other {a : BusAddr} (h : busOwned a = false) (v : Byte) :
    busWrite a v = .busWr8Other a v := by
  simp only [busOwned, Bool.or_eq_false_iff, beq_eq_false_iff_ne] at h
  simp [busWrite, h]

theorem viRead_unmapped {a : Word} (h : viMapped a = false) : viRead a = .viRd32Unmapped a := by
  simp only [viMapped, Bool.or_eq_false_iff, beq_eq_false_iff_ne] at h
  simp [viRead, h]

theorem viWrite_unmapped {a : Word} (h : viMapped a = false) (v : Word) :
    viWrite a v = .viWr32Unmapped a v := by
  simp only [viMapped, Bool.or_eq_false_iff, beq_eq_false_iff_ne] at h
  simp [viWrite, h]

/-- An owned address is one of the five (R110). -/
theorem busOwned_cases {a : BusAddr} (h : busOwned a = true) :
    a = Params.addrDiv ∨ a = Params.addrTima ∨ a = Params.addrTma ∨ a = Params.addrTac ∨
      a = Params.addrIf := by
  simpa [busOwned, or_assoc] using h

/-- A mapped address is one of the fourteen (R112). -/
theorem viMapped_cases {a : Word} (h : viMapped a = true) :
    a = Params.viCtrl ∨ a = Params.viOrigin ∨ a = Params.viWidth ∨ a = Params.viVIntr ∨
      a = Params.viVCurrent ∨ a = Params.viBurst ∨ a = Params.viVSync ∨ a = Params.viHSync ∨
      a = Params.viHSyncLeap ∨ a = Params.viHVideo ∨ a = Params.viVVideo ∨ a = Params.viVBurst ∨
      a = Params.viXScale ∨ a = Params.viYScale := by
  simpa only [viMapped, Bool.or_eq_true, beq_iff_eq, or_assoc] using h

/-- What an address selects is well-formed, and its encoding carries that address (R104). -/
theorem busRead_encode (a : BusAddr) :
    wellFormed (busRead a) = true ∧ encode (busRead a) = encodeBusRead a := by
  cases h : busOwned a
  · rw [busRead_other h]; exact ⟨by simp [wellFormed, h], rfl⟩
  · rcases busOwned_cases h with rfl | rfl | rfl | rfl | rfl <;> exact ⟨rfl, rfl⟩

theorem busWrite_encode (a : BusAddr) (v : Byte) :
    wellFormed (busWrite a v) = true ∧ encode (busWrite a v) = encodeBusWrite a v := by
  cases h : busOwned a
  · rw [busWrite_other h]; exact ⟨by simp [wellFormed, h], rfl⟩
  · rcases busOwned_cases h with rfl | rfl | rfl | rfl | rfl <;> exact ⟨rfl, rfl⟩

theorem viRead_encode (a : Word) :
    wellFormed (viRead a) = true ∧ encode (viRead a) = encodeViRead a := by
  cases h : viMapped a
  · rw [viRead_unmapped h]; exact ⟨by simp [wellFormed, h], rfl⟩
  · rcases viMapped_cases h with
      rfl | rfl | rfl | rfl | rfl | rfl | rfl | rfl | rfl | rfl | rfl | rfl | rfl | rfl <;>
      exact ⟨rfl, rfl⟩

theorem viWrite_encode (a v : Word) :
    wellFormed (viWrite a v) = true ∧ encode (viWrite a v) = encodeViWrite a v := by
  cases h : viMapped a
  · rw [viWrite_unmapped h]; exact ⟨by simp [wellFormed, h], rfl⟩
  · rcases viMapped_cases h with
      rfl | rfl | rfl | rfl | rfl | rfl | rfl | rfl | rfl | rfl | rfl | rfl | rfl | rfl <;>
      exact ⟨rfl, rfl⟩

theorem whenZero_ok {p : Prop} [Decidable p] {i j : Instr} (h : whenZero p i = .ok j) : p ∧ i = j := by
  unfold whenZero at h
  split at h
  · injection h with h; exact ⟨‹p›, h⟩
  · cases h

end Sys2Proof
end

