-- ==== Sys2Proof/Laws/State.lean ====
section
/-! SUPPORT. One lemma per field of State for each named update of Machine/Ops.lean. -/

namespace Sys2Proof.Machine

@[simp] theorem withTimer_tmr (s : State) (t : Timer) : (s.withTimer t).tmr = t := rfl
@[simp] theorem withTimer_vi (s : State) (t : Timer) : (s.withTimer t).vi = s.vi := rfl
@[simp] theorem withTimer_env (s : State) (t : Timer) : (s.withTimer t).env = s.env := rfl
@[simp] theorem withTimer_host (s : State) (t : Timer) : (s.withTimer t).host = s.host := rfl

@[simp] theorem withVideo_tmr (s : State) (v : Video) : (s.withVideo v).tmr = s.tmr := rfl
@[simp] theorem withVideo_vi (s : State) (v : Video) : (s.withVideo v).vi = v := rfl
@[simp] theorem withVideo_env (s : State) (v : Video) : (s.withVideo v).env = s.env := rfl
@[simp] theorem withVideo_host (s : State) (v : Video) : (s.withVideo v).host = s.host := rfl

@[simp] theorem answer_tmr (s : State) (r : OpResult) : (s.answer r).tmr = s.tmr := rfl
@[simp] theorem answer_vi (s : State) (r : OpResult) : (s.answer r).vi = s.vi := rfl
@[simp] theorem answer_env (s : State) (r : OpResult) : (s.answer r).env = s.env := rfl
@[simp] theorem answer_result (s : State) (r : OpResult) : (s.answer r).host.result = r := rfl
@[simp] theorem answer_porDone (s : State) (r : OpResult) :
    (s.answer r).host.porDone = s.host.porDone := rfl
@[simp] theorem answer_draws (s : State) (r : OpResult) : (s.answer r).host.draws = s.host.draws := rfl
@[simp] theorem answer_inbox (s : State) (r : OpResult) : (s.answer r).host.inbox = s.host.inbox := rfl

@[simp] theorem taken_tmr (s : State) : s.taken.tmr = s.tmr := rfl
@[simp] theorem taken_vi (s : State) : s.taken.vi = s.vi := rfl
@[simp] theorem taken_env (s : State) : s.taken.env = s.env := rfl
@[simp] theorem taken_porDone (s : State) : s.taken.host.porDone = s.host.porDone := rfl
@[simp] theorem taken_result (s : State) : s.taken.host.result = s.host.result := rfl
@[simp] theorem taken_draws (s : State) : s.taken.host.draws = s.host.draws := rfl
@[simp] theorem taken_inbox (s : State) : s.taken.host.inbox = s.host.inbox.tail := rfl

@[simp] theorem issuedFirst_tmr (s : State) (ev : HostEvent) : (s.issuedFirst ev).tmr = s.tmr := rfl
@[simp] theorem issuedFirst_vi (s : State) (ev : HostEvent) : (s.issuedFirst ev).vi = s.vi := rfl
@[simp] theorem issuedFirst_env (s : State) (ev : HostEvent) : (s.issuedFirst ev).env = s.env := rfl
@[simp] theorem issuedFirst_porDone (s : State) (ev : HostEvent) :
    (s.issuedFirst ev).host.porDone = s.host.porDone := rfl
@[simp] theorem issuedFirst_result (s : State) (ev : HostEvent) :
    (s.issuedFirst ev).host.result = s.host.result := rfl
@[simp] theorem issuedFirst_draws (s : State) (ev : HostEvent) :
    (s.issuedFirst ev).host.draws = s.host.draws := rfl
@[simp] theorem issuedFirst_inbox (s : State) (ev : HostEvent) :
    (s.issuedFirst ev).host.inbox = ev :: s.host.inbox := rfl

/-- Taking the event that was put first gives back the state. -/
@[simp] theorem taken_issuedFirst (s : State) (ev : HostEvent) : (s.issuedFirst ev).taken = s := rfl

@[simp] theorem drawScanline_value (s : State) :
    (drawScanline s).1 = Config.vCurrentIn s.host.draws := rfl
@[simp] theorem drawScanline_tmr (s : State) : (drawScanline s).2.tmr = s.tmr := rfl
@[simp] theorem drawScanline_vi (s : State) : (drawScanline s).2.vi = s.vi := rfl
@[simp] theorem drawScanline_env (s : State) : (drawScanline s).2.env = s.env := rfl
@[simp] theorem drawScanline_porDone (s : State) :
    (drawScanline s).2.host.porDone = s.host.porDone := rfl
@[simp] theorem drawScanline_result (s : State) : (drawScanline s).2.host.result = s.host.result := rfl
@[simp] theorem drawScanline_draws (s : State) : (drawScanline s).2.host.draws = s.host.draws + 1 := rfl
@[simp] theorem drawScanline_inbox (s : State) : (drawScanline s).2.host.inbox = s.host.inbox := rfl

end Sys2Proof.Machine
end

