-- ==== Sys2Proof/Laws/Ops.lean ====
section
/-! SUPPORT. What the shared operations of Machine/Ops.lean can do, each said once: answers, the sparse
memory and its canonical form, the events. -/

namespace Sys2Proof.Machine

/-! ### Answers -/

theorem afterPor_of_porDone {s : State} (h : s.host.porDone = true) (k : Answer) : afterPor s k = k := by
  simp [afterPor, h]

theorem afterPor_of_not_porDone {s : State} (h : s.host.porDone = false) (k : Answer) :
    afterPor s k = .refused .beforePor := by
  simp [afterPor, h]

theorem afterPor_next {s t : State} {k : Answer} (h : afterPor s k = .next t) :
    s.host.porDone = true ∧ k = .next t := by
  cases hp : s.host.porDone with
  | true => exact ⟨rfl, (afterPor_of_porDone hp k).symm.trans h⟩
  | false => rw [afterPor_of_not_porDone hp] at h; cases h

theorem doneTimer_of_porDone {s : State} (h : s.host.porDone = true) (t : Timer) (r : OpResult) :
    doneTimer s t r = .next ((s.withTimer t).answer r) := afterPor_of_porDone h _

theorem doneVideo_of_porDone {s : State} (h : s.host.porDone = true) (v : Video) (r : OpResult) :
    doneVideo s v r = .next ((s.withVideo v).answer r) := afterPor_of_porDone h _

theorem doneRead_of_porDone {s : State} (h : s.host.porDone = true) (r : OpResult) :
    doneRead s r = .next (s.answer r) := afterPor_of_porDone h _

theorem doneTimer_next {s u : State} {t : Timer} {r : OpResult} (h : doneTimer s t r = .next u) :
    s.host.porDone = true ∧ u = (s.withTimer t).answer r := by
  obtain ⟨hp, hk⟩ := afterPor_next h
  injection hk with hk
  exact ⟨hp, hk.symm⟩

theorem doneVideo_next {s u : State} {v : Video} {r : OpResult} (h : doneVideo s v r = .next u) :
    s.host.porDone = true ∧ u = (s.withVideo v).answer r := by
  obtain ⟨hp, hk⟩ := afterPor_next h
  injection hk with hk
  exact ⟨hp, hk.symm⟩

theorem doneRead_next {s u : State} {r : OpResult} (h : doneRead s r = .next u) :
    s.host.porDone = true ∧ u = s.answer r := by
  obtain ⟨hp, hk⟩ := afterPor_next h
  injection hk with hk
  exact ⟨hp, hk.symm⟩

/-! ### Memory -/

theorem wfFrom_mono {lo lo' : Nat} (hle : lo ≤ lo') {m : Memory} (h : Memory.wfFrom lo' m = true) :
    Memory.wfFrom lo m = true := by
  cases m with
  | nil => rfl
  | cons c rest =>
    obtain ⟨k, b⟩ := c
    simp only [Memory.wfFrom, Bool.and_eq_true, decide_eq_true_eq] at h ⊢
    exact ⟨⟨Nat.le_trans hle h.1.1, h.1.2⟩, h.2⟩

/-- An offset below every listed one is unlisted. -/
theorem read_of_wfFrom {lo a : Nat} {m : Memory} (h : Memory.wfFrom lo m = true) (ha : a < lo) :
    Memory.read m a = Params.dramUnlisted := by
  induction m generalizing lo with
  | nil => rfl
  | cons c rest ih =>
    obtain ⟨k, b⟩ := c
    simp only [Memory.wfFrom, Bool.and_eq_true, decide_eq_true_eq] at h
    have hk : k ≠ a := by omega
    simp only [Memory.read, hk, if_false]
    exact ih h.2 (by omega)

theorem wfFrom_put {lo a : Nat} {b : Byte} {rest : Memory} (hlo : lo ≤ a)
    (h : Memory.wfFrom (a + 1) rest = true) : Memory.wfFrom lo (Memory.put a b rest) = true := by
  unfold Memory.put
  split
  · exact wfFrom_mono (by omega) h
  · rename_i hb
    simp [Memory.wfFrom, hlo, h, hb]

theorem wfFrom_write {lo a : Nat} {b : Byte} {m : Memory} (hlo : lo ≤ a)
    (h : Memory.wfFrom lo m = true) : Memory.wfFrom lo (Memory.write m a b) = true := by
  induction m generalizing lo with
  | nil => exact wfFrom_put hlo rfl
  | cons c rest ih =>
    obtain ⟨k, d⟩ := c
    have h' := h
    simp only [Memory.wfFrom, Bool.and_eq_true, decide_eq_true_eq] at h'
    simp only [Memory.write]
    split
    · rename_i hlt
      refine wfFrom_put hlo ?_
      simp only [Memory.wfFrom, Bool.and_eq_true, decide_eq_true_eq]
      exact ⟨⟨by omega, h'.1.2⟩, h'.2⟩
    · split
      · rename_i heq
        subst heq
        exact wfFrom_put hlo h'.2
      · simp only [Memory.wfFrom, Bool.and_eq_true, decide_eq_true_eq]
        exact ⟨h'.1, ih (by omega) h'.2⟩

/-- Every write keeps the canonical form. -/
theorem write_wf {m : Memory} (h : Memory.wf m = true) (a : Nat) (b : Byte) :
    Memory.wf (Memory.write m a b) = true := wfFrom_write (Nat.zero_le a) h

theorem read_put_same {a : Nat} {b : Byte} {rest : Memory} (h : Memory.wfFrom (a + 1) rest = true) :
    Memory.read (Memory.put a b rest) a = b := by
  unfold Memory.put
  split
  · rename_i hb
    rw [read_of_wfFrom h (Nat.lt_succ_self a), hb]
  · simp [Memory.read]

theorem read_put_other {a c : Nat} {b : Byte} {rest : Memory} (h : c ≠ a) :
    Memory.read (Memory.put a b rest) c = Memory.read rest c := by
  unfold Memory.put
  split
  · rfl
  · simp [Memory.read, Ne.symm h]

/-- A read after a write to the same offset gives the value written. -/
theorem read_write_same {m : Memory} {lo : Nat} (h : Memory.wfFrom lo m = true) (a : Nat) (b : Byte) :
    Memory.read (Memory.write m a b) a = b := by
  induction m generalizing lo with
  | nil => exact read_put_same rfl
  | cons c rest ih =>
    obtain ⟨k, d⟩ := c
    have h' := h
    simp only [Memory.wfFrom, Bool.and_eq_true, decide_eq_true_eq] at h'
    simp only [Memory.write]
    split
    · rename_i hlt
      refine read_put_same ?_
      simp only [Memory.wfFrom, Bool.and_eq_true, decide_eq_true_eq]
      exact ⟨⟨by omega, h'.1.2⟩, h'.2⟩
    · split
      · rename_i heq
        subst heq
        exact read_put_same h'.2
      · rename_i hne
        simp only [Memory.read, Ne.symm hne, if_false]
        exact ih h'.2

/-- A write leaves every other offset alone. -/
theorem read_write_other {m : Memory} {a c : Nat} (hne : c ≠ a) (b : Byte) :
    Memory.read (Memory.write m a b) c = Memory.read m c := by
  induction m with
  | nil => exact read_put_other hne
  | cons e rest ih =>
    obtain ⟨k, d⟩ := e
    simp only [Memory.write]
    split
    · exact read_put_other hne
    · split
      · rename_i heq
        subst heq
        rw [read_put_other hne]
        simp [Memory.read, Ne.symm hne]
      · simp only [Memory.read, ih]

/-- What a write can list: the offset written, or what was listed. -/
theorem mem_write {m : Memory} {a : Nat} {b : Byte} {c : Host.Cell}
    (h : c ∈ Memory.write m a b) : c.1 = a ∨ c ∈ m := by
  have mem_put : ∀ {rest : Memory}, c ∈ Memory.put a b rest → c.1 = a ∨ c ∈ rest := by
    intro rest hc
    unfold Memory.put at hc
    split at hc
    · exact .inr hc
    · rcases List.mem_cons.mp hc with rfl | hc
      · exact .inl rfl
      · exact .inr hc
  induction m with
  | nil => exact mem_put h
  | cons e rest ih =>
    obtain ⟨k, d⟩ := e
    simp only [Memory.write] at h
    split at h
    · exact mem_put h
    · split at h
      · rcases mem_put h with h | h
        · exact .inl h
        · exact .inr (List.mem_cons_of_mem _ h)
      · rcases List.mem_cons.mp h with rfl | h
        · exact .inr List.mem_cons_self
        · rcases ih h with h | h
          · exact .inl h
          · exact .inr (List.mem_cons_of_mem _ h)

theorem reset_dram_wf : Memory.wf State.reset.env.dram = true := rfl

@[simp] theorem memRead_length (e : Environment) (a n : Nat) : (memRead e a n).length = n := by
  simp [memRead]

/-! ### Events -/

/-- A DRAM store of the environment, done: only DRAM changes, and the offset exists. -/
theorem environmentStore_next {s t : State} {a : Nat} {b : Byte} (h : environmentStore s a b = .next t) :
    a < s.env.dramSize ∧
      t = { s with env := { s.env with dram := Memory.write s.env.dram a b } } := by
  unfold environmentStore at h
  split at h
  · rename_i hr
    simp only [memReadable, Bool.and_eq_true, decide_eq_true_eq] at hr
    injection h with h
    exact ⟨by omega, h.symm⟩
  · cases h

/-- Everything one turn can be: nothing issued, an operation done, or a DRAM store. -/
theorem takeTurn_next {run : Instr → State → Answer} {s t : State} (h : takeTurn run s = .next t) :
    (s.host.inbox = [] ∧ t = s) ∨
    (∃ od i, s.host.inbox.head? = some (.issue od) ∧ decode od = .ok i ∧ run i s.taken = .next t) ∨
    (∃ a b, s.host.inbox.head? = some (.dramStore a b) ∧ environmentStore s.taken a b = .next t) := by
  unfold takeTurn at h
  split at h
  · rename_i hin
    injection h with h
    exact .inl ⟨hin, h.symm⟩
  · rename_i ev rest hin
    cases ev with
    | issue od =>
      simp only [handleEvent] at h
      split at h
      · rename_i i hd
        exact .inr (.inl ⟨od, i, by simp [hin], hd, h⟩)
      · cases h
    | dramStore a b => exact .inr (.inr ⟨a, b, by simp [hin], h⟩)

end Sys2Proof.Machine
end

