-- ==== Sys2Proof/Laws/PerInstr.lean ====
section
/-! SUPPORT. Per-instruction laws. The family TableRow: the descriptor the encoder writes for a well-formed
operation matches the row of spec/opcode_table.json that the constructor stands for, and matches no row of
the same operation code before it (R104: the first row that matches is the operation). -/

namespace Sys2Proof.Laws

/-- The `match` value of a constructor's row, copied from spec/opcode_table.json. -/
def rowMatch (i : Instr) : Descriptor :=
  match i with
  | .por => 0x00000000000000000000#80
  | .tReset => 0x01000000000000000000#80
  | .tUpdate _ _ => 0x02000000000000000000#80
  | .busRd8Div => 0x10000000FF0400000000#80
  | .busRd8Tima => 0x10000000FF0500000000#80
  | .busRd8Tma => 0x10000000FF0600000000#80
  | .busRd8Tac => 0x10000000FF0700000000#80
  | .busRd8If => 0x10000000FF0F00000000#80
  | .busRd8Other _ => 0x10000000000000000000#80
  | .busWr8Div _ => 0x11000000FF0400000000#80
  | .busWr8Tima _ => 0x11000000FF0500000000#80
  | .busWr8Tma _ => 0x11000000FF0600000000#80
  | .busWr8Tac _ => 0x11000000FF0700000000#80
  | .busWr8If _ => 0x11000000FF0F00000000#80
  | .busWr8Other _ _ => 0x11000000000000000000#80
  | .viRd32Ctrl => 0x20000440000000000000#80
  | .viRd32Origin => 0x20000440000400000000#80
  | .viRd32Width => 0x20000440000800000000#80
  | .viRd32VIntr => 0x20000440000C00000000#80
  | .viRd32VCurrent => 0x20000440001000000000#80
  | .viRd32Burst => 0x20000440001400000000#80
  | .viRd32VSync => 0x20000440001800000000#80
  | .viRd32HSync => 0x20000440001C00000000#80
  | .viRd32HSyncLeap => 0x20000440002000000000#80
  | .viRd32HVideo => 0x20000440002400000000#80
  | .viRd32VVideo => 0x20000440002800000000#80
  | .viRd32VBurst => 0x20000440002C00000000#80
  | .viRd32XScale => 0x20000440003000000000#80
  | .viRd32YScale => 0x20000440003400000000#80
  | .viRd32Unmapped _ => 0x20000000000000000000#80
  | .viWr32Ctrl _ => 0x21000440000000000000#80
  | .viWr32Origin _ => 0x21000440000400000000#80
  | .viWr32Width _ => 0x21000440000800000000#80
  | .viWr32VIntr _ => 0x21000440000C00000000#80
  | .viWr32VCurrent _ => 0x21000440001000000000#80
  | .viWr32Burst _ => 0x21000440001400000000#80
  | .viWr32VSync _ => 0x21000440001800000000#80
  | .viWr32HSync _ => 0x21000440001C00000000#80
  | .viWr32HSyncLeap _ => 0x21000440002000000000#80
  | .viWr32HVideo _ => 0x21000440002400000000#80
  | .viWr32VVideo _ => 0x21000440002800000000#80
  | .viWr32VBurst _ => 0x21000440002C00000000#80
  | .viWr32XScale _ => 0x21000440003000000000#80
  | .viWr32YScale _ => 0x21000440003400000000#80
  | .viWr32Unmapped _ _ => 0x21000000000000000000#80
  | .viRedraw => 0x22000000000000000000#80
  | .viVint => 0x23000000000000000000#80

/-- The `mask` value of a constructor's row, copied from spec/opcode_table.json. -/
def rowMask (i : Instr) : Descriptor :=
  match i with
  | .por => 0xFFFFFFFFFFFFFFFFFFFF#80
  | .tReset => 0xFFFFFFFFFFFFFFFFFFFF#80
  | .tUpdate _ _ => 0xFF00FFFFFFFFFFFFFF00#80
  | .busRd8Div => 0xFFFFFFFFFFFFFFFFFFFF#80
  | .busRd8Tima => 0xFFFFFFFFFFFFFFFFFFFF#80
  | .busRd8Tma => 0xFFFFFFFFFFFFFFFFFFFF#80
  | .busRd8Tac => 0xFFFFFFFFFFFFFFFFFFFF#80
  | .busRd8If => 0xFFFFFFFFFFFFFFFFFFFF#80
  | .busRd8Other _ => 0xFFFFFFFF0000FFFFFFFF#80
  | .busWr8Div _ => 0xFFFFFFFFFFFFFFFFFF00#80
  | .busWr8Tima _ => 0xFFFFFFFFFFFFFFFFFF00#80
  | .busWr8Tma _ => 0xFFFFFFFFFFFFFFFFFF00#80
  | .busWr8Tac _ => 0xFFFFFFFFFFFFFFFFFF00#80
  | .busWr8If _ => 0xFFFFFFFFFFFFFFFFFF00#80
  | .busWr8Other _ _ => 0xFFFFFFFF0000FFFFFF00#80
  | .viRd32Ctrl => 0xFFFFFFFFFFFFFFFFFFFF#80
  | .viRd32Origin => 0xFFFFFFFFFFFFFFFFFFFF#80
  | .viRd32Width => 0xFFFFFFFFFFFFFFFFFFFF#80
  | .viRd32VIntr => 0xFFFFFFFFFFFFFFFFFFFF#80
  | .viRd32VCurrent => 0xFFFFFFFFFFFFFFFFFFFF#80
  | .viRd32Burst => 0xFFFFFFFFFFFFFFFFFFFF#80
  | .viRd32VSync => 0xFFFFFFFFFFFFFFFFFFFF#80
  | .viRd32HSync => 0xFFFFFFFFFFFFFFFFFFFF#80
  | .viRd32HSyncLeap => 0xFFFFFFFFFFFFFFFFFFFF#80
  | .viRd32HVideo => 0xFFFFFFFFFFFFFFFFFFFF#80
  | .viRd32VVideo => 0xFFFFFFFFFFFFFFFFFFFF#80
  | .viRd32VBurst => 0xFFFFFFFFFFFFFFFFFFFF#80
  | .viRd32XScale => 0xFFFFFFFFFFFFFFFFFFFF#80
  | .viRd32YScale => 0xFFFFFFFFFFFFFFFFFFFF#80
  | .viRd32Unmapped _ => 0xFFFF00000000FFFFFFFF#80
  | .viWr32Ctrl _ => 0xFFFFFFFFFFFF00000000#80
  | .viWr32Origin _ => 0xFFFFFFFFFFFF00000000#80
  | .viWr32Width _ => 0xFFFFFFFFFFFF00000000#80
  | .viWr32VIntr _ => 0xFFFFFFFFFFFF00000000#80
  | .viWr32VCurrent _ => 0xFFFFFFFFFFFF00000000#80
  | .viWr32Burst _ => 0xFFFFFFFFFFFF00000000#80
  | .viWr32VSync _ => 0xFFFFFFFFFFFF00000000#80
  | .viWr32HSync _ => 0xFFFFFFFFFFFF00000000#80
  | .viWr32HSyncLeap _ => 0xFFFFFFFFFFFF00000000#80
  | .viWr32HVideo _ => 0xFFFFFFFFFFFF00000000#80
  | .viWr32VVideo _ => 0xFFFFFFFFFFFF00000000#80
  | .viWr32VBurst _ => 0xFFFFFFFFFFFF00000000#80
  | .viWr32XScale _ => 0xFFFFFFFFFFFF00000000#80
  | .viWr32YScale _ => 0xFFFFFFFFFFFF00000000#80
  | .viWr32Unmapped _ _ => 0xFFFF0000000000000000#80
  | .viRedraw => 0xFFFFFFFFFFFFFFFFFFFF#80
  | .viVint => 0xFFFFFFFFFFFFFFFFFFFF#80

/-- The rows of the table that stand before a catch-all row of the same operation code, as (match, mask);
only those rows need them, since two named rows differ in a masked address bit. -/
def rowsBefore (i : Instr) : List (Descriptor × Descriptor) :=
  match i with
  | .busRd8Other _ =>
    [(0x10000000FF0400000000#80, 0xFFFFFFFFFFFFFFFFFFFF#80),
      (0x10000000FF0500000000#80, 0xFFFFFFFFFFFFFFFFFFFF#80),
      (0x10000000FF0600000000#80, 0xFFFFFFFFFFFFFFFFFFFF#80),
      (0x10000000FF0700000000#80, 0xFFFFFFFFFFFFFFFFFFFF#80),
      (0x10000000FF0F00000000#80, 0xFFFFFFFFFFFFFFFFFFFF#80)]
  | .busWr8Other _ _ =>
    [(0x11000000FF0400000000#80, 0xFFFFFFFFFFFFFFFFFF00#80),
      (0x11000000FF0500000000#80, 0xFFFFFFFFFFFFFFFFFF00#80),
      (0x11000000FF0600000000#80, 0xFFFFFFFFFFFFFFFFFF00#80),
      (0x11000000FF0700000000#80, 0xFFFFFFFFFFFFFFFFFF00#80),
      (0x11000000FF0F00000000#80, 0xFFFFFFFFFFFFFFFFFF00#80)]
  | .viRd32Unmapped _ =>
    [(0x20000440000000000000#80, 0xFFFFFFFFFFFFFFFFFFFF#80),
      (0x20000440000400000000#80, 0xFFFFFFFFFFFFFFFFFFFF#80),
      (0x20000440000800000000#80, 0xFFFFFFFFFFFFFFFFFFFF#80),
      (0x20000440000C00000000#80, 0xFFFFFFFFFFFFFFFFFFFF#80),
      (0x20000440001000000000#80, 0xFFFFFFFFFFFFFFFFFFFF#80),
      (0x20000440001400000000#80, 0xFFFFFFFFFFFFFFFFFFFF#80),
      (0x20000440001800000000#80, 0xFFFFFFFFFFFFFFFFFFFF#80),
      (0x20000440001C00000000#80, 0xFFFFFFFFFFFFFFFFFFFF#80),
      (0x20000440002000000000#80, 0xFFFFFFFFFFFFFFFFFFFF#80),
      (0x20000440002400000000#80, 0xFFFFFFFFFFFFFFFFFFFF#80),
      (0x20000440002800000000#80, 0xFFFFFFFFFFFFFFFFFFFF#80),
      (0x20000440002C00000000#80, 0xFFFFFFFFFFFFFFFFFFFF#80),
      (0x20000440003000000000#80, 0xFFFFFFFFFFFFFFFFFFFF#80),
      (0x20000440003400000000#80, 0xFFFFFFFFFFFFFFFFFFFF#80)]
  | .viWr32Unmapped _ _ =>
    [(0x21000440000000000000#80, 0xFFFFFFFFFFFF00000000#80),
      (0x21000440000400000000#80, 0xFFFFFFFFFFFF00000000#80),
      (0x21000440000800000000#80, 0xFFFFFFFFFFFF00000000#80),
      (0x21000440000C00000000#80, 0xFFFFFFFFFFFF00000000#80),
      (0x21000440001000000000#80, 0xFFFFFFFFFFFF00000000#80),
      (0x21000440001400000000#80, 0xFFFFFFFFFFFF00000000#80),
      (0x21000440001800000000#80, 0xFFFFFFFFFFFF00000000#80),
      (0x21000440001C00000000#80, 0xFFFFFFFFFFFF00000000#80),
      (0x21000440002000000000#80, 0xFFFFFFFFFFFF00000000#80),
      (0x21000440002400000000#80, 0xFFFFFFFFFFFF00000000#80),
      (0x21000440002800000000#80, 0xFFFFFFFFFFFF00000000#80),
      (0x21000440002C00000000#80, 0xFFFFFFFFFFFF00000000#80),
      (0x21000440003000000000#80, 0xFFFFFFFFFFFF00000000#80),
      (0x21000440003400000000#80, 0xFFFFFFFFFFFF00000000#80)]
  | _ => []

/-- The encoding of a well-formed operation lies on its own row of the table and on none before it. -/
def TableRow.Statement (i : Instr) : Prop :=
  wellFormed i = true →
    encode i &&& rowMask i = rowMatch i ∧ ∀ r ∈ rowsBefore i, encode i &&& r.2 ≠ r.1

/-! ### Masks of the operand fields -/

theorem and_ones32 (w : Word) : w &&& 0xFFFFFFFF#32 = w := BitVec.and_allOnes (x := w)

theorem and_ones8 (b : Byte) : b &&& 0xFF#8 = b := BitVec.and_allOnes (x := b)

theorem low8_masked (v : Byte) : v.setWidth 32 &&& 0xFFFFFF00#32 = 0#32 := by
  refine BitVec.eq_of_getLsbD_eq fun i hi => ?_
  have hm : ∀ j, j < 8 → (0xFFFFFF00#32).getLsbD j = false := by decide
  by_cases h : i < 8
  · simp [BitVec.getLsbD_and, hm i h]
  · have : v.getLsbD i = false := BitVec.getLsbD_of_ge v i (by omega)
    simp [BitVec.getLsbD_and, BitVec.getLsbD_setWidth, this]

theorem low16_masked (a : BusAddr) : a.setWidth 32 &&& 0xFFFF0000#32 = 0#32 := by
  refine BitVec.eq_of_getLsbD_eq fun i hi => ?_
  have hm : ∀ j, j < 16 → (0xFFFF0000#32).getLsbD j = false := by decide
  by_cases h : i < 16
  · simp [BitVec.getLsbD_and, hm i h]
  · have : a.getLsbD i = false := BitVec.getLsbD_of_ge a i (Nat.not_lt.mp h)
    simp [BitVec.getLsbD_and, BitVec.getLsbD_setWidth, this]

/-- A mask or match value by its fields. -/
theorem as_pack (d : Descriptor) (op aux : Byte) (addr data : Word)
    (h : d = pack op aux addr data) (op' aux' : Byte) (addr' data' : Word) :
    pack op' aux' addr' data' &&& d =
      pack (op' &&& op) (aux' &&& aux) (addr' &&& addr) (data' &&& data) := by
  rw [h, pack_and]

/-- A descriptor whose address field differs lies on no row that compares the whole address. -/
theorem off_row {op aux : Byte} {addr data : Word} {d m : Descriptor}
    (hm : addrField m = 0xFFFFFFFF#32) (ha : addr ≠ addrField d) :
    pack op aux addr data &&& m ≠ d := by
  intro h
  apply ha
  have h2 := congrArg addrField h
  rw [← pack_fields m, pack_and, addrField_pack, hm] at h2
  rw [← h2, and_ones32]

/-- The write of one byte to a named bus cell lies on the row that compares all but `data[7:0]`. -/
theorem busWrite_row (a : BusAddr) (v : Byte) (m d : Descriptor)
    (hm : m = pack 0xFF#8 0xFF#8 0xFFFFFFFF#32 0xFFFFFF00#32)
    (hd : d = pack 0x11#8 0#8 (a.setWidth 32) 0#32) : encodeBusWrite a v &&& m = d := by
  rw [encodeBusWrite, as_pack m _ _ _ _ hm, hd, low8_masked]
  simp [and_ones32]

/-- The write of a word to a named video register lies on the row that compares all but `data`. -/
theorem viWrite_row (a v : Word) (m d : Descriptor)
    (hm : m = pack 0xFF#8 0xFF#8 0xFFFFFFFF#32 0#32)
    (hd : d = pack 0x21#8 0#8 a 0#32) : encodeViWrite a v &&& m = d := by
  rw [encodeViWrite, as_pack m _ _ _ _ hm, hd]
  simp [and_ones32]

/-- A bus address that is not owned is none of the five. -/
theorem not_busOwned {a b : BusAddr} (h : busOwned a = false) (hb : busOwned b = true) :
    a.setWidth 32 ≠ (b.setWidth 32 : Word) := by
  intro he
  have : a = b := by simpa using congrArg busAddrOf he
  rw [this, hb] at h
  cases h

/-- An unmapped video address is none of the fourteen. -/
theorem not_viMapped {a b : Word} (h : viMapped a = false) (hb : viMapped b = true) : a ≠ b := by
  rintro rfl
  rw [hb] at h
  cases h

/-! ### One lemma per constructor -/

theorem TableRow.por : TableRow.Statement (.por) :=
  fun _ => ⟨by decide, by simp [rowsBefore]⟩

theorem TableRow.tReset : TableRow.Statement (.tReset) :=
  fun _ => ⟨by decide, by simp [rowsBefore]⟩

theorem TableRow.tUpdate (cycles : Byte) (oldIf : Byte) : TableRow.Statement (.tUpdate cycles oldIf) := by
  refine fun _ => ⟨?_, by simp [rowsBefore]⟩
  have hm : rowMask (.tUpdate cycles oldIf) = pack 0xFF#8 0#8 0xFFFFFFFF#32 0xFFFFFF00#32 := rfl
  rw [encode, as_pack _ _ _ _ _ hm, low8_masked]
  have hd : rowMatch (.tUpdate cycles oldIf) = pack 0x02#8 0#8 0#32 0#32 := rfl
  rw [hd]
  simp

theorem TableRow.busRd8Div : TableRow.Statement (.busRd8Div) :=
  fun _ => ⟨by decide, by simp [rowsBefore]⟩

theorem TableRow.busRd8Tima : TableRow.Statement (.busRd8Tima) :=
  fun _ => ⟨by decide, by simp [rowsBefore]⟩

theorem TableRow.busRd8Tma : TableRow.Statement (.busRd8Tma) :=
  fun _ => ⟨by decide, by simp [rowsBefore]⟩

theorem TableRow.busRd8Tac : TableRow.Statement (.busRd8Tac) :=
  fun _ => ⟨by decide, by simp [rowsBefore]⟩

theorem TableRow.busRd8If : TableRow.Statement (.busRd8If) :=
  fun _ => ⟨by decide, by simp [rowsBefore]⟩

theorem TableRow.busRd8Other (a : BusAddr) : TableRow.Statement (.busRd8Other a) := by
  intro hw
  have ho : busOwned a = false := by simpa [wellFormed] using hw
  refine ⟨?_, ?_⟩
  · have hm : rowMask (.busRd8Other a) = pack 0xFF#8 0xFF#8 0xFFFF0000#32 0xFFFFFFFF#32 := rfl
    rw [encode, encodeBusRead, as_pack _ _ _ _ _ hm, low16_masked]
    have hd : rowMatch (.busRd8Other a) = pack 0x10#8 0#8 0#32 0#32 := rfl
    rw [hd]
    simp
  · have off (b : BusAddr) (hb : busOwned b = true) (d m : Descriptor)
        (hm : addrField m = 0xFFFFFFFF#32) (hd : addrField d = b.setWidth 32) :
        encode (.busRd8Other a) &&& m ≠ d :=
      off_row hm (hd ▸ not_busOwned ho hb)
    simp only [rowsBefore, List.forall_mem_cons]
    exact ⟨off Params.addrDiv rfl _ _ rfl rfl, off Params.addrTima rfl _ _ rfl rfl,
      off Params.addrTma rfl _ _ rfl rfl, off Params.addrTac rfl _ _ rfl rfl,
      off Params.addrIf rfl _ _ rfl rfl, by simp⟩

theorem TableRow.busWr8Div (v : Byte) : TableRow.Statement (.busWr8Div v) :=
  fun _ => ⟨busWrite_row _ _ _ _ rfl rfl, by simp [rowsBefore]⟩

theorem TableRow.busWr8Tima (v : Byte) : TableRow.Statement (.busWr8Tima v) :=
  fun _ => ⟨busWrite_row _ _ _ _ rfl rfl, by simp [rowsBefore]⟩

theorem TableRow.busWr8Tma (v : Byte) : TableRow.Statement (.busWr8Tma v) :=
  fun _ => ⟨busWrite_row _ _ _ _ rfl rfl, by simp [rowsBefore]⟩

theorem TableRow.busWr8Tac (v : Byte) : TableRow.Statement (.busWr8Tac v) :=
  fun _ => ⟨busWrite_row _ _ _ _ rfl rfl, by simp [rowsBefore]⟩

theorem TableRow.busWr8If (v : Byte) : TableRow.Statement (.busWr8If v) :=
  fun _ => ⟨busWrite_row _ _ _ _ rfl rfl, by simp [rowsBefore]⟩

theorem TableRow.busWr8Other (a : BusAddr) (v : Byte) : TableRow.Statement (.busWr8Other a v) := by
  intro hw
  have ho : busOwned a = false := by simpa [wellFormed] using hw
  refine ⟨?_, ?_⟩
  · have hm : rowMask (.busWr8Other a v) = pack 0xFF#8 0xFF#8 0xFFFF0000#32 0xFFFFFF00#32 := rfl
    rw [encode, encodeBusWrite, as_pack _ _ _ _ _ hm, low16_masked, low8_masked]
    have hd : rowMatch (.busWr8Other a v) = pack 0x11#8 0#8 0#32 0#32 := rfl
    rw [hd]
    simp
  · have off (b : BusAddr) (hb : busOwned b = true) (d m : Descriptor)
        (hm : addrField m = 0xFFFFFFFF#32) (hd : addrField d = b.setWidth 32) :
        encode (.busWr8Other a v) &&& m ≠ d :=
      off_row hm (hd ▸ not_busOwned ho hb)
    simp only [rowsBefore, List.forall_mem_cons]
    exact ⟨off Params.addrDiv rfl _ _ rfl rfl, off Params.addrTima rfl _ _ rfl rfl,
      off Params.addrTma rfl _ _ rfl rfl, off Params.addrTac rfl _ _ rfl rfl,
      off Params.addrIf rfl _ _ rfl rfl, by simp⟩

theorem TableRow.viRd32Ctrl : TableRow.Statement (.viRd32Ctrl) :=
  fun _ => ⟨by decide, by simp [rowsBefore]⟩

theorem TableRow.viRd32Origin : TableRow.Statement (.viRd32Origin) :=
  fun _ => ⟨by decide, by simp [rowsBefore]⟩

theorem TableRow.viRd32Width : TableRow.Statement (.viRd32Width) :=
  fun _ => ⟨by decide, by simp [rowsBefore]⟩

theorem TableRow.viRd32VIntr : TableRow.Statement (.viRd32VIntr) :=
  fun _ => ⟨by decide, by simp [rowsBefore]⟩

theorem TableRow.viRd32VCurrent : TableRow.Statement (.viRd32VCurrent) :=
  fun _ => ⟨by decide, by simp [rowsBefore]⟩

theorem TableRow.viRd32Burst : TableRow.Statement (.viRd32Burst) :=
  fun _ => ⟨by decide, by simp [rowsBefore]⟩

theorem TableRow.viRd32VSync : TableRow.Statement (.viRd32VSync) :=
  fun _ => ⟨by decide, by simp [rowsBefore]⟩

theorem TableRow.viRd32HSync : TableRow.Statement (.viRd32HSync) :=
  fun _ => ⟨by decide, by simp [rowsBefore]⟩

theorem TableRow.viRd32HSyncLeap : TableRow.Statement (.viRd32HSyncLeap) :=
  fun _ => ⟨by decide, by simp [rowsBefore]⟩

theorem TableRow.viRd32HVideo : TableRow.Statement (.viRd32HVideo) :=
  fun _ => ⟨by decide, by simp [rowsBefore]⟩

theorem TableRow.viRd32VVideo : TableRow.Statement (.viRd32VVideo) :=
  fun _ => ⟨by decide, by simp [rowsBefore]⟩

theorem TableRow.viRd32VBurst : TableRow.Statement (.viRd32VBurst) :=
  fun _ => ⟨by decide, by simp [rowsBefore]⟩

theorem TableRow.viRd32XScale : TableRow.Statement (.viRd32XScale) :=
  fun _ => ⟨by decide, by simp [rowsBefore]⟩

theorem TableRow.viRd32YScale : TableRow.Statement (.viRd32YScale) :=
  fun _ => ⟨by decide, by simp [rowsBefore]⟩

theorem TableRow.viRd32Unmapped (a : Word) : TableRow.Statement (.viRd32Unmapped a) := by
  intro hw
  have ho : viMapped a = false := by simpa [wellFormed] using hw
  refine ⟨?_, ?_⟩
  · have hm : rowMask (.viRd32Unmapped a) = pack 0xFF#8 0xFF#8 0#32 0xFFFFFFFF#32 := rfl
    rw [encode, encodeViRead, as_pack _ _ _ _ _ hm]
    have hd : rowMatch (.viRd32Unmapped a) = pack 0x20#8 0#8 0#32 0#32 := rfl
    rw [hd]
    simp
  · have off (b : Word) (hb : viMapped b = true) (d m : Descriptor)
        (hm : addrField m = 0xFFFFFFFF#32) (hd : addrField d = b) :
        encode (.viRd32Unmapped a) &&& m ≠ d :=
      off_row hm (hd ▸ not_viMapped ho hb)
    simp only [rowsBefore, List.forall_mem_cons]
    exact ⟨off Params.viCtrl rfl _ _ rfl rfl,
      off Params.viOrigin rfl _ _ rfl rfl,
      off Params.viWidth rfl _ _ rfl rfl,
      off Params.viVIntr rfl _ _ rfl rfl,
      off Params.viVCurrent rfl _ _ rfl rfl,
      off Params.viBurst rfl _ _ rfl rfl,
      off Params.viVSync rfl _ _ rfl rfl,
      off Params.viHSync rfl _ _ rfl rfl,
      off Params.viHSyncLeap rfl _ _ rfl rfl,
      off Params.viHVideo rfl _ _ rfl rfl,
      off Params.viVVideo rfl _ _ rfl rfl,
      off Params.viVBurst rfl _ _ rfl rfl,
      off Params.viXScale rfl _ _ rfl rfl,
      off Params.viYScale rfl _ _ rfl rfl, by simp⟩

theorem TableRow.viWr32Ctrl (v : Word) : TableRow.Statement (.viWr32Ctrl v) :=
  fun _ => ⟨viWrite_row _ _ _ _ rfl rfl, by simp [rowsBefore]⟩

theorem TableRow.viWr32Origin (v : Word) : TableRow.Statement (.viWr32Origin v) :=
  fun _ => ⟨viWrite_row _ _ _ _ rfl rfl, by simp [rowsBefore]⟩

theorem TableRow.viWr32Width (v : Word) : TableRow.Statement (.viWr32Width v) :=
  fun _ => ⟨viWrite_row _ _ _ _ rfl rfl, by simp [rowsBefore]⟩

theorem TableRow.viWr32VIntr (v : Word) : TableRow.Statement (.viWr32VIntr v) :=
  fun _ => ⟨viWrite_row _ _ _ _ rfl rfl, by simp [rowsBefore]⟩

theorem TableRow.viWr32VCurrent (v : Word) : TableRow.Statement (.viWr32VCurrent v) :=
  fun _ => ⟨viWrite_row _ _ _ _ rfl rfl, by simp [rowsBefore]⟩

theorem TableRow.viWr32Burst (v : Word) : TableRow.Statement (.viWr32Burst v) :=
  fun _ => ⟨viWrite_row _ _ _ _ rfl rfl, by simp [rowsBefore]⟩

theorem TableRow.viWr32VSync (v : Word) : TableRow.Statement (.viWr32VSync v) :=
  fun _ => ⟨viWrite_row _ _ _ _ rfl rfl, by simp [rowsBefore]⟩

theorem TableRow.viWr32HSync (v : Word) : TableRow.Statement (.viWr32HSync v) :=
  fun _ => ⟨viWrite_row _ _ _ _ rfl rfl, by simp [rowsBefore]⟩

theorem TableRow.viWr32HSyncLeap (v : Word) : TableRow.Statement (.viWr32HSyncLeap v) :=
  fun _ => ⟨viWrite_row _ _ _ _ rfl rfl, by simp [rowsBefore]⟩

theorem TableRow.viWr32HVideo (v : Word) : TableRow.Statement (.viWr32HVideo v) :=
  fun _ => ⟨viWrite_row _ _ _ _ rfl rfl, by simp [rowsBefore]⟩

theorem TableRow.viWr32VVideo (v : Word) : TableRow.Statement (.viWr32VVideo v) :=
  fun _ => ⟨viWrite_row _ _ _ _ rfl rfl, by simp [rowsBefore]⟩

theorem TableRow.viWr32VBurst (v : Word) : TableRow.Statement (.viWr32VBurst v) :=
  fun _ => ⟨viWrite_row _ _ _ _ rfl rfl, by simp [rowsBefore]⟩

theorem TableRow.viWr32XScale (v : Word) : TableRow.Statement (.viWr32XScale v) :=
  fun _ => ⟨viWrite_row _ _ _ _ rfl rfl, by simp [rowsBefore]⟩

theorem TableRow.viWr32YScale (v : Word) : TableRow.Statement (.viWr32YScale v) :=
  fun _ => ⟨viWrite_row _ _ _ _ rfl rfl, by simp [rowsBefore]⟩

theorem TableRow.viWr32Unmapped (a : Word) (v : Word) : TableRow.Statement (.viWr32Unmapped a v) := by
  intro hw
  have ho : viMapped a = false := by simpa [wellFormed] using hw
  refine ⟨?_, ?_⟩
  · have hm : rowMask (.viWr32Unmapped a v) = pack 0xFF#8 0xFF#8 0#32 0#32 := rfl
    rw [encode, encodeViWrite, as_pack _ _ _ _ _ hm]
    have hd : rowMatch (.viWr32Unmapped a v) = pack 0x21#8 0#8 0#32 0#32 := rfl
    rw [hd]
    simp
  · have off (b : Word) (hb : viMapped b = true) (d m : Descriptor)
        (hm : addrField m = 0xFFFFFFFF#32) (hd : addrField d = b) :
        encode (.viWr32Unmapped a v) &&& m ≠ d :=
      off_row hm (hd ▸ not_viMapped ho hb)
    simp only [rowsBefore, List.forall_mem_cons]
    exact ⟨off Params.viCtrl rfl _ _ rfl rfl,
      off Params.viOrigin rfl _ _ rfl rfl,
      off Params.viWidth rfl _ _ rfl rfl,
      off Params.viVIntr rfl _ _ rfl rfl,
      off Params.viVCurrent rfl _ _ rfl rfl,
      off Params.viBurst rfl _ _ rfl rfl,
      off Params.viVSync rfl _ _ rfl rfl,
      off Params.viHSync rfl _ _ rfl rfl,
      off Params.viHSyncLeap rfl _ _ rfl rfl,
      off Params.viHVideo rfl _ _ rfl rfl,
      off Params.viVVideo rfl _ _ rfl rfl,
      off Params.viVBurst rfl _ _ rfl rfl,
      off Params.viXScale rfl _ _ rfl rfl,
      off Params.viYScale rfl _ _ rfl rfl, by simp⟩

theorem TableRow.viRedraw : TableRow.Statement (.viRedraw) :=
  fun _ => ⟨by decide, by simp [rowsBefore]⟩

theorem TableRow.viVint : TableRow.Statement (.viVint) :=
  fun _ => ⟨by decide, by simp [rowsBefore]⟩

end Sys2Proof.Laws
end

