-- ==== Sys2Proof/Laws/Scaler.lean ====
section
/-! SUPPORT. What the parts of `VI.REDRAW` leave, said once (spec/42_video_redraw.md R211 to R217): sizes of
buffers, and the fields each part leaves alone. -/

namespace Sys2Proof.Machine

@[simp] theorem computeDimensions_outWidth (v : Video) :
    (computeDimensions v).outWidth = scaledWidth v := rfl
@[simp] theorem computeDimensions_outHeight (v : Video) :
    (computeDimensions v).outHeight = scaledHeight v := rfl
@[simp] theorem computeDimensions_fb (v : Video) : (computeDimensions v).fb = v.fb := rfl
@[simp] theorem computeDimensions_ctrl (v : Video) : (computeDimensions v).ctrl = v.ctrl := rfl
@[simp] theorem computeDimensions_srcBound (v : Video) :
    (computeDimensions v).srcBound = v.srcBound := rfl
@[simp] theorem computeDimensions_blackedOut (v : Video) :
    (computeDimensions v).blackedOut = v.blackedOut := rfl

@[simp] theorem blackOut_blackedOut (v : Video) : (blackOut v).blackedOut = true := by
  unfold blackOut; split
  · assumption
  · rfl

theorem blackOut_black {v : Video} (h : v.blackedOut = true) : blackOut v = v := by simp [blackOut, h]

theorem blackOut_rendering {v : Video} (h : v.blackedOut = false) :
    blackOut v = { v with fb := List.replicate v.fb.length 0#8, blackedOut := true } := by
  simp [blackOut, h]

/-- `black_out` touches the buffer's bytes and the flag only, and keeps the buffer's length (R213). -/
theorem blackOut_frame (v : Video) :
    blackOut v = { v with fb := (blackOut v).fb, blackedOut := true } ∧
      (blackOut v).fb.length = v.fb.length := by
  cases h : v.blackedOut
  · rw [blackOut_rendering h]; simp
  · rw [blackOut_black h]; simp [← h]

@[simp] theorem resizeBytes_length (bytes : List Byte) (n : Nat) : (resizeBytes bytes n).length = n := by
  unfold resizeBytes
  split
  · simp [*]
  · simp; omega

theorem resizeBytes_same {bytes : List Byte} {n : Nat} (h : bytes.length = n) :
    resizeBytes bytes n = bytes := by simp [resizeBytes, h]

theorem raster_length {w h k : Nat} {pixel : Nat → Nat → List Byte}
    (hp : ∀ x y, (pixel x y).length = k) : (raster w h pixel).length = w * h * k := by
  have hrow : ∀ y, ((List.range w).flatMap fun x => pixel x y).length = w * k := by
    intro y
    simp [List.length_flatMap, hp]
  simp [raster, List.length_flatMap] at hrow ⊢
  simp [hrow]
  ring

@[simp] theorem sourcePixel32_length (e : Environment) (v : Video) (x y : Nat) :
    (sourcePixel32 e v x y).length = 4 := by simp [sourcePixel32]

@[simp] theorem sourcePixel16_length (e : Environment) (v : Video) (x y : Nat) :
    (sourcePixel16 e v x y).length = 4 := rfl

@[simp] theorem startRendering_blackedOut (v : Video) : (startRendering v).blackedOut = false := rfl
@[simp] theorem startRendering_outWidth (v : Video) : (startRendering v).outWidth = v.outWidth := rfl
@[simp] theorem startRendering_outHeight (v : Video) : (startRendering v).outHeight = v.outHeight := rfl
@[simp] theorem startRendering_fbW (v : Video) : (startRendering v).fbW = v.outWidth := rfl
@[simp] theorem startRendering_fbH (v : Video) : (startRendering v).fbH = v.outHeight := rfl
@[simp] theorem startRendering_fb_length (v : Video) :
    (startRendering v).fb.length = v.outWidth * v.outHeight * 4 := by simp [startRendering]

theorem convert32_length (e : Environment) (v : Video) :
    (convert32 e v).fb.length = v.outWidth * v.outHeight * 4 :=
  raster_length fun x y => sourcePixel32_length e v x y

theorem convert16_length (e : Environment) (v : Video) :
    (convert16 e v).fb.length = v.outWidth * v.outHeight * 4 :=
  raster_length fun x y => sourcePixel16_length e v x y

/-- The Rendering branch touches the buffer, its dimensions and the flag only, and the buffer it leaves
has the computed size (R214, R58). -/
theorem rendered_frame {e : Environment} {v u : Video} (h : rendered e v = some u) :
    u = { v with fb := u.fb, fbW := v.outWidth, fbH := v.outHeight, blackedOut := false } ∧
      u.fb.length = v.outWidth * v.outHeight * 4 := by
  unfold rendered at h
  split at h
  · split at h
    · injection h with h; subst h; exact ⟨rfl, by simp [convert32_length]⟩
    · cases h
  · split at h
    · injection h with h; subst h; exact ⟨rfl, by simp [convert16_length]⟩
    · cases h
  · injection h with h; subst h; exact ⟨rfl, by simp⟩
  · injection h with h; subst h; exact ⟨rfl, by simp⟩

/-- The two branches of a redraw (R210). -/
theorem redrawn_cases {e : Environment} {v u : Video} (h : redrawn e v = some u) :
    (blackoutCondition (computeDimensions v) = true ∧ u = blackOut (computeDimensions v)) ∨
    (blackoutCondition (computeDimensions v) = false ∧
      rendered e (computeDimensions v) = some u) := by
  simp only [redrawn] at h
  split at h
  · injection h with h; exact .inl ⟨by assumption, h.symm⟩
  · exact .inr ⟨by simp_all, h⟩

end Sys2Proof.Machine
end

