-- ==== Sys2Proof/Laws/Timer.lean ====
section
/-! SUPPORT. What each step of `T.UPDATE` does, said once (spec/40_timer.md R141 to R148): an equation for
each case of a step, and the fields a step leaves alone. -/

namespace Sys2Proof.Machine

/-! ### Step 1 -/

theorem step1_normal {t : Timer} (h : t.timaOverflow = false) (n : Bool) (f : Byte) :
    step1PendingReload n f t = t := by
  simp [step1PendingReload, h]

theorem step1_pending {t : Timer} (h : t.timaOverflow = true) (n : Bool) (f : Byte) :
    step1PendingReload n f t =
      { t with
        tima := if t.tima = 0#8 then t.tma else t.tima
        ifReg := if (n = false ∨ t.tima = 0#8) ∧ t.ifReg = f
          then t.ifReg ||| (1#8 <<< Params.timerIfBit) else t.ifReg
        timaOverflow := false } := by
  by_cases hz : t.tima = 0#8 <;> by_cases hf : t.ifReg = f <;> cases n <;>
    simp [step1PendingReload, raiseTimerRequest, h, hz, hf]

@[simp] theorem step1_timaOverflow (n : Bool) (f : Byte) (t : Timer) :
    (step1PendingReload n f t).timaOverflow = false := by
  cases h : t.timaOverflow
  · rw [step1_normal h, h]
  · rw [step1_pending h]

/-- Step 1 touches TIMA, IF and the overflow-delay flag only. -/
theorem step1_frame (n : Bool) (f : Byte) (t : Timer) :
    step1PendingReload n f t =
      { t with
        tima := (step1PendingReload n f t).tima
        ifReg := (step1PendingReload n f t).ifReg
        timaOverflow := false } := by
  cases h : t.timaOverflow
  · rw [step1_normal h]; cases t; cases h; rfl
  · rw [step1_pending h]

@[simp] theorem step1_tac (n : Bool) (f : Byte) (t : Timer) :
    (step1PendingReload n f t).tac = t.tac := by rw [step1_frame]
@[simp] theorem step1_tma (n : Bool) (f : Byte) (t : Timer) :
    (step1PendingReload n f t).tma = t.tma := by rw [step1_frame]
@[simp] theorem step1_divReset (n : Bool) (f : Byte) (t : Timer) :
    (step1PendingReload n f t).divReset = t.divReset := by rw [step1_frame]
@[simp] theorem step1_tacChanged (n : Bool) (f : Byte) (t : Timer) :
    (step1PendingReload n f t).tacChanged = t.tacChanged := by rw [step1_frame]
@[simp] theorem step1_oscillator (n : Bool) (f : Byte) (t : Timer) :
    (step1PendingReload n f t).oscillator = t.oscillator := by rw [step1_frame]
@[simp] theorem step1_timerCounter (n : Bool) (f : Byte) (t : Timer) :
    (step1PendingReload n f t).timerCounter = t.timerCounter := by rw [step1_frame]
@[simp] theorem step1_divResetIndex (n : Bool) (f : Byte) (t : Timer) :
    (step1PendingReload n f t).divResetIndex = t.divResetIndex := by rw [step1_frame]
@[simp] theorem step1_oldTac (n : Bool) (f : Byte) (t : Timer) :
    (step1PendingReload n f t).oldTac = t.oldTac := by rw [step1_frame]

/-- Step 1 leaves IF or adds the timer request to it (R141). -/
theorem step1_ifReg (n : Bool) (f : Byte) (t : Timer) :
    (step1PendingReload n f t).ifReg = t.ifReg ∨
      (step1PendingReload n f t).ifReg = t.ifReg ||| (1#8 <<< Params.timerIfBit) := by
  cases h : t.timaOverflow
  · rw [step1_normal h]; exact .inl rfl
  · rw [step1_pending h]
    by_cases hc : (n = false ∨ t.tima = 0#8) ∧ t.ifReg = f
    · exact .inr (by simp only [hc]; simp)
    · exact .inl (by simp only [hc]; simp)

/-! ### Step 3 -/

theorem step3_quiet {t : Timer} (h : t.divReset = false) (div : Nat) : step3DivReset div t = t := by
  simp [step3DivReset, h]

theorem step3_reset {t : Timer} (h : t.divReset = true) (div : Nat) :
    step3DivReset div t =
      { t with
        tima := if t.divResetIndex ≥ ((div / 2 : Nat) : Int) then t.tima + 1 else t.tima
        divReset := false, oscillator := 0, timerCounter := 0, divResetIndex := 0 } := by
  by_cases hi : t.divResetIndex ≥ ((div / 2 : Nat) : Int) <;>
    simp only [step3DivReset, bumpTima, h, hi, if_true, if_false]

@[simp] theorem step3_divReset (div : Nat) (t : Timer) : (step3DivReset div t).divReset = false := by
  cases h : t.divReset
  · rw [step3_quiet h, h]
  · rw [step3_reset h]

/-- Step 3 touches TIMA, its signal, the oscillator, the phase counter and the reset index only. -/
theorem step3_frame (div : Nat) (t : Timer) :
    step3DivReset div t =
      { t with
        tima := (step3DivReset div t).tima
        divReset := false
        oscillator := if t.divReset then 0 else t.oscillator
        timerCounter := if t.divReset then 0 else t.timerCounter
        divResetIndex := if t.divReset then 0 else t.divResetIndex } := by
  cases h : t.divReset
  · rw [step3_quiet h]; cases t; cases h; rfl
  · rw [step3_reset h]; simp

@[simp] theorem step3_tac (div : Nat) (t : Timer) : (step3DivReset div t).tac = t.tac := by
  rw [step3_frame]
@[simp] theorem step3_tma (div : Nat) (t : Timer) : (step3DivReset div t).tma = t.tma := by
  rw [step3_frame]
@[simp] theorem step3_ifReg (div : Nat) (t : Timer) : (step3DivReset div t).ifReg = t.ifReg := by
  rw [step3_frame]
@[simp] theorem step3_tacChanged (div : Nat) (t : Timer) :
    (step3DivReset div t).tacChanged = t.tacChanged := by rw [step3_frame]
@[simp] theorem step3_oldTac (div : Nat) (t : Timer) : (step3DivReset div t).oldTac = t.oldTac := by
  rw [step3_frame]
@[simp] theorem step3_timaOverflow (div : Nat) (t : Timer) :
    (step3DivReset div t).timaOverflow = t.timaOverflow := by rw [step3_frame]
@[simp] theorem step3_oscillator (div : Nat) (t : Timer) :
    (step3DivReset div t).oscillator = if t.divReset then 0 else t.oscillator := by rw [step3_frame]
@[simp] theorem step3_timerCounter (div : Nat) (t : Timer) :
    (step3DivReset div t).timerCounter = if t.divReset then 0 else t.timerCounter := by rw [step3_frame]
@[simp] theorem step3_divResetIndex (div : Nat) (t : Timer) :
    (step3DivReset div t).divResetIndex = if t.divReset then 0 else t.divResetIndex := by
  rw [step3_frame]

/-! ### Step 4 -/

theorem step4_quiet {t : Timer} (h : t.tacChanged = false) (g : TacGlitch) (div : Nat) :
    step4TacChanged g div t = t := by
  simp [step4TacChanged, h]

theorem step4_changed {t : Timer} (h : t.tacChanged = true) (g : TacGlitch) (div : Nat) :
    step4TacChanged g div t =
      { t with
        tima := if tacEnabled t.oldTac = true ∧
            g (tacDivisor t.oldTac) (tacEnabled t.tac) div t.timerCounter t.divResetIndex = true
          then t.tima + 1 else t.tima
        tacChanged := false } := by
  by_cases hc : tacEnabled t.oldTac = true ∧
      g (tacDivisor t.oldTac) (tacEnabled t.tac) div t.timerCounter t.divResetIndex = true <;>
    simp [step4TacChanged, bumpTima, h, hc]

@[simp] theorem step4_tacChanged (g : TacGlitch) (div : Nat) (t : Timer) :
    (step4TacChanged g div t).tacChanged = false := by
  cases h : t.tacChanged
  · rw [step4_quiet h, h]
  · rw [step4_changed h]

/-- Step 4 touches TIMA and its signal only. -/
theorem step4_frame (g : TacGlitch) (div : Nat) (t : Timer) :
    step4TacChanged g div t =
      { t with tima := (step4TacChanged g div t).tima, tacChanged := false } := by
  cases h : t.tacChanged
  · rw [step4_quiet h]; cases t; cases h; rfl
  · rw [step4_changed h]

@[simp] theorem step4_tac (g : TacGlitch) (div : Nat) (t : Timer) :
    (step4TacChanged g div t).tac = t.tac := by rw [step4_frame]
@[simp] theorem step4_tma (g : TacGlitch) (div : Nat) (t : Timer) :
    (step4TacChanged g div t).tma = t.tma := by rw [step4_frame]
@[simp] theorem step4_ifReg (g : TacGlitch) (div : Nat) (t : Timer) :
    (step4TacChanged g div t).ifReg = t.ifReg := by rw [step4_frame]
@[simp] theorem step4_divReset (g : TacGlitch) (div : Nat) (t : Timer) :
    (step4TacChanged g div t).divReset = t.divReset := by rw [step4_frame]
@[simp] theorem step4_oldTac (g : TacGlitch) (div : Nat) (t : Timer) :
    (step4TacChanged g div t).oldTac = t.oldTac := by rw [step4_frame]
@[simp] theorem step4_timaOverflow (g : TacGlitch) (div : Nat) (t : Timer) :
    (step4TacChanged g div t).timaOverflow = t.timaOverflow := by rw [step4_frame]
@[simp] theorem step4_oscillator (g : TacGlitch) (div : Nat) (t : Timer) :
    (step4TacChanged g div t).oscillator = t.oscillator := by rw [step4_frame]
@[simp] theorem step4_timerCounter (g : TacGlitch) (div : Nat) (t : Timer) :
    (step4TacChanged g div t).timerCounter = t.timerCounter := by rw [step4_frame]
@[simp] theorem step4_divResetIndex (g : TacGlitch) (div : Nat) (t : Timer) :
    (step4TacChanged g div t).divResetIndex = t.divResetIndex := by rw [step4_frame]

/-! ### Step 5 -/

@[simp] theorem step5_oscillator (c : Cycles) (t : Timer) :
    (step5Oscillator c t).oscillator = t.oscillator + c.setWidth Params.oscW := rfl
@[simp] theorem step5_div (c : Cycles) (t : Timer) :
    (step5Oscillator c t).div = (t.oscillator + c.setWidth Params.oscW).extractLsb' 8 8 := rfl
@[simp] theorem step5_tac (c : Cycles) (t : Timer) : (step5Oscillator c t).tac = t.tac := rfl
@[simp] theorem step5_tima (c : Cycles) (t : Timer) : (step5Oscillator c t).tima = t.tima := rfl
@[simp] theorem step5_tma (c : Cycles) (t : Timer) : (step5Oscillator c t).tma = t.tma := rfl
@[simp] theorem step5_ifReg (c : Cycles) (t : Timer) : (step5Oscillator c t).ifReg = t.ifReg := rfl
@[simp] theorem step5_divReset (c : Cycles) (t : Timer) :
    (step5Oscillator c t).divReset = t.divReset := rfl
@[simp] theorem step5_tacChanged (c : Cycles) (t : Timer) :
    (step5Oscillator c t).tacChanged = t.tacChanged := rfl
@[simp] theorem step5_timerCounter (c : Cycles) (t : Timer) :
    (step5Oscillator c t).timerCounter = t.timerCounter := rfl
@[simp] theorem step5_divResetIndex (c : Cycles) (t : Timer) :
    (step5Oscillator c t).divResetIndex = t.divResetIndex := rfl
@[simp] theorem step5_oldTac (c : Cycles) (t : Timer) : (step5Oscillator c t).oldTac = t.oldTac := rfl
@[simp] theorem step5_timaOverflow (c : Cycles) (t : Timer) :
    (step5Oscillator c t).timaOverflow = t.timaOverflow := rfl

/-! ### Step 6 -/

theorem step6_terminated {t : Timer} (h : t.divResetIndex = -1) (c : Cycles) (div : Nat) :
    step6ResetIndex c div t = t := by
  simp [step6ResetIndex, h]

theorem step6_exceeds {t : Timer} {c : Cycles} {div : Nat} (h : t.divResetIndex ≠ -1)
    (hi : t.divResetIndex + (c.toNat : Int) > (div : Int)) :
    step6ResetIndex c div t = { t with tima := t.tima + 1, divResetIndex := -1 } := by
  simp only [step6ResetIndex, h, if_false, hi, if_true, bumpTima]

theorem step6_within {t : Timer} {c : Cycles} {div : Nat} (h : t.divResetIndex ≠ -1)
    (hi : ¬ t.divResetIndex + (c.toNat : Int) > (div : Int)) :
    step6ResetIndex c div t = { t with divResetIndex := t.divResetIndex + (c.toNat : Int) } := by
  simp only [step6ResetIndex, h, if_false, hi]

/-- Step 6 touches TIMA and the reset index only. -/
theorem step6_frame (c : Cycles) (div : Nat) (t : Timer) :
    step6ResetIndex c div t =
      { t with
        tima := (step6ResetIndex c div t).tima
        divResetIndex := (step6ResetIndex c div t).divResetIndex } := by
  by_cases h : t.divResetIndex = -1
  · rw [step6_terminated h]
  · by_cases hi : t.divResetIndex + (c.toNat : Int) > (div : Int)
    · rw [step6_exceeds h hi]
    · rw [step6_within h hi]

/-- After step 6 the index is the sentinel or lies between where it was and the divisor. -/
theorem step6_index_range (c : Cycles) (div : Nat) {t : Timer} (h : -1 ≤ t.divResetIndex) :
    (step6ResetIndex c div t).divResetIndex = -1 ∨
      (0 ≤ (step6ResetIndex c div t).divResetIndex ∧
        (step6ResetIndex c div t).divResetIndex ≤ (div : Int)) := by
  by_cases hs : t.divResetIndex = -1
  · rw [step6_terminated hs]; exact .inl hs
  · by_cases hi : t.divResetIndex + (c.toNat : Int) > (div : Int)
    · rw [step6_exceeds hs hi]; exact .inl rfl
    · rw [step6_within hs hi]; exact .inr ⟨by dsimp only; omega, by dsimp only; omega⟩

@[simp] theorem step6_tac (c : Cycles) (div : Nat) (t : Timer) :
    (step6ResetIndex c div t).tac = t.tac := by rw [step6_frame]
@[simp] theorem step6_tma (c : Cycles) (div : Nat) (t : Timer) :
    (step6ResetIndex c div t).tma = t.tma := by rw [step6_frame]
@[simp] theorem step6_ifReg (c : Cycles) (div : Nat) (t : Timer) :
    (step6ResetIndex c div t).ifReg = t.ifReg := by rw [step6_frame]
@[simp] theorem step6_div (c : Cycles) (div : Nat) (t : Timer) :
    (step6ResetIndex c div t).div = t.div := by rw [step6_frame]
@[simp] theorem step6_divReset (c : Cycles) (div : Nat) (t : Timer) :
    (step6ResetIndex c div t).divReset = t.divReset := by rw [step6_frame]
@[simp] theorem step6_tacChanged (c : Cycles) (div : Nat) (t : Timer) :
    (step6ResetIndex c div t).tacChanged = t.tacChanged := by rw [step6_frame]
@[simp] theorem step6_oscillator (c : Cycles) (div : Nat) (t : Timer) :
    (step6ResetIndex c div t).oscillator = t.oscillator := by rw [step6_frame]
@[simp] theorem step6_timerCounter (c : Cycles) (div : Nat) (t : Timer) :
    (step6ResetIndex c div t).timerCounter = t.timerCounter := by rw [step6_frame]
@[simp] theorem step6_oldTac (c : Cycles) (div : Nat) (t : Timer) :
    (step6ResetIndex c div t).oldTac = t.oldTac := by rw [step6_frame]
@[simp] theorem step6_timaOverflow (c : Cycles) (div : Nat) (t : Timer) :
    (step6ResetIndex c div t).timaOverflow = t.timaOverflow := by rw [step6_frame]

/-! ### Step 7 -/

theorem countLoop_stop {div counter : Nat} (h : counter < div) (n : Nat) (tima : Byte) :
    countLoop (n + 1) div counter tima = ⟨counter, tima, false⟩ := by
  simp [countLoop, h]

theorem countLoop_wrap {div counter : Nat} (h : ¬ counter < div) (n : Nat) :
    countLoop (n + 1) div counter 0xFF#8 = ⟨counter - div, 0#8, true⟩ := by
  simp [countLoop, h]

theorem countLoop_go {div counter : Nat} {tima : Byte} (h : ¬ counter < div) (ht : tima ≠ 0xFF#8)
    (n : Nat) : countLoop (n + 1) div counter tima = countLoop n div (counter - div) (tima + 1) := by
  simp [countLoop, h, ht]

/-- A loop that wrapped left TIMA at 0. -/
theorem countLoop_tima_of_wrapped {n div counter : Nat} {tima : Byte}
    (h : (countLoop n div counter tima).wrapped = true) : (countLoop n div counter tima).tima = 0#8 := by
  induction n generalizing counter tima with
  | zero => simp [countLoop] at h
  | succ n ih =>
    by_cases hc : counter < div
    · rw [countLoop_stop hc] at h; cases h
    · by_cases ht : tima = 0xFF#8
      · subst ht; rw [countLoop_wrap hc]
      · rw [countLoop_go hc ht] at h ⊢; exact ih h

theorem step7_disabled {t : Timer} (h : tacEnabled t.tac = false) (c : Cycles) (div : Nat) :
    step7Count c div t = (t, false) := by
  simp [step7Count, h]

theorem step7_enabled {t : Timer} (h : tacEnabled t.tac = true) (c : Cycles) (div : Nat) :
    step7Count c div t =
      ({ t with
          timerCounter := (countLoop countFuel div (t.timerCounter + c.toNat) t.tima).counter
          tima := (countLoop countFuel div (t.timerCounter + c.toNat) t.tima).tima
          timaOverflow :=
            t.timaOverflow || (countLoop countFuel div (t.timerCounter + c.toNat) t.tima).wrapped },
        (countLoop countFuel div (t.timerCounter + c.toNat) t.tima).wrapped) := by
  simp [step7Count, h]

/-- Step 7 touches the phase counter, TIMA and the overflow-delay flag only, and it sets the flag exactly
where it reports a wrap. -/
theorem step7_frame (c : Cycles) (div : Nat) (t : Timer) :
    (step7Count c div t).1 =
      { t with
        timerCounter := (step7Count c div t).1.timerCounter
        tima := (step7Count c div t).1.tima
        timaOverflow := t.timaOverflow || (step7Count c div t).2 } := by
  cases h : tacEnabled t.tac
  · rw [step7_disabled h]; simp
  · rw [step7_enabled h]

@[simp] theorem step7_tac (c : Cycles) (div : Nat) (t : Timer) :
    (step7Count c div t).1.tac = t.tac := by rw [step7_frame]
@[simp] theorem step7_tma (c : Cycles) (div : Nat) (t : Timer) :
    (step7Count c div t).1.tma = t.tma := by rw [step7_frame]
@[simp] theorem step7_ifReg (c : Cycles) (div : Nat) (t : Timer) :
    (step7Count c div t).1.ifReg = t.ifReg := by rw [step7_frame]
@[simp] theorem step7_div (c : Cycles) (div : Nat) (t : Timer) :
    (step7Count c div t).1.div = t.div := by rw [step7_frame]
@[simp] theorem step7_divReset (c : Cycles) (div : Nat) (t : Timer) :
    (step7Count c div t).1.divReset = t.divReset := by rw [step7_frame]
@[simp] theorem step7_tacChanged (c : Cycles) (div : Nat) (t : Timer) :
    (step7Count c div t).1.tacChanged = t.tacChanged := by rw [step7_frame]
@[simp] theorem step7_oscillator (c : Cycles) (div : Nat) (t : Timer) :
    (step7Count c div t).1.oscillator = t.oscillator := by rw [step7_frame]
@[simp] theorem step7_divResetIndex (c : Cycles) (div : Nat) (t : Timer) :
    (step7Count c div t).1.divResetIndex = t.divResetIndex := by rw [step7_frame]
@[simp] theorem step7_oldTac (c : Cycles) (div : Nat) (t : Timer) :
    (step7Count c div t).1.oldTac = t.oldTac := by rw [step7_frame]
@[simp] theorem step7_timaOverflow (c : Cycles) (div : Nat) (t : Timer) :
    (step7Count c div t).1.timaOverflow = (t.timaOverflow || (step7Count c div t).2) := by
  rw [step7_frame]

/-! ### Steps 1 to 6 together, and the whole update -/

@[simp] theorem beforeCount_div (g : TacGlitch) (n : Bool) (c : Cycles) (f : Byte) (t : Timer) :
    (beforeCount g n c f t).2 = tacDivisor t.tac := by simp [beforeCount]

/-- The fields steps 1 to 6 leave in a state that does not depend on the glitch or on TIMA. -/
theorem beforeCount_fields (g : TacGlitch) (n : Bool) (c : Cycles) (f : Byte) (t : Timer) :
    (beforeCount g n c f t).1.tac = t.tac ∧
    (beforeCount g n c f t).1.tma = t.tma ∧
    (beforeCount g n c f t).1.divReset = false ∧
    (beforeCount g n c f t).1.tacChanged = false ∧
    (beforeCount g n c f t).1.timaOverflow = false ∧
    (beforeCount g n c f t).1.oldTac = t.oldTac ∧
    (beforeCount g n c f t).1.ifReg = (step1PendingReload n f t).ifReg ∧
    (beforeCount g n c f t).1.timerCounter = (if t.divReset then 0 else t.timerCounter) ∧
    (beforeCount g n c f t).1.oscillator =
      (if t.divReset then 0 else t.oscillator) + c.setWidth Params.oscW ∧
    (beforeCount g n c f t).1.div =
      ((if t.divReset then 0 else t.oscillator) + c.setWidth Params.oscW).extractLsb' 8 8 := by
  simp [beforeCount]

theorem timerUpdate_irq (g : TacGlitch) (n : Bool) (c : Cycles) (f : Byte) (t : Timer) :
    (timerUpdate g n c f t).2 =
      (step7Count c (tacDivisor t.tac) (beforeCount g n c f t).1).2 := by
  simp [timerUpdate]

/-- Everything `T.UPDATE` leaves in a state that does not depend on the glitch or on TIMA (R131). -/
theorem timerUpdate_fields (g : TacGlitch) (n : Bool) (c : Cycles) (f : Byte) (t : Timer) :
    (timerUpdate g n c f t).1.tac = t.tac ∧
    (timerUpdate g n c f t).1.tma = t.tma ∧
    (timerUpdate g n c f t).1.oldTac = t.tac ∧
    (timerUpdate g n c f t).1.divReset = false ∧
    (timerUpdate g n c f t).1.tacChanged = false ∧
    (timerUpdate g n c f t).1.timaOverflow = (timerUpdate g n c f t).2 ∧
    (timerUpdate g n c f t).1.ifReg = (step1PendingReload n f t).ifReg ∧
    (timerUpdate g n c f t).1.oscillator =
      (if t.divReset then 0 else t.oscillator) + c.setWidth Params.oscW ∧
    (timerUpdate g n c f t).1.div = (timerUpdate g n c f t).1.oscillator.extractLsb' 8 8 := by
  obtain ⟨h1, h2, h3, h4, h5, h6, h7, h8, h9, h10⟩ := beforeCount_fields g n c f t
  simp [timerUpdate, h1, h2, h3, h4, h5, h7, h9, h10]

/-! ### The glitch predicate -/

/-- The property every instantiation of `P_TAC_GLITCH` has (R149): a write that changes neither the
enable nor the divisor glitches nothing. -/
theorem tacGlitch_same (d phase : Nat) (ridx : Int) : tacGlitch d true d phase ridx = false := by
  simp [tacGlitch]

/-- The default instantiation has that property. -/
theorem tacGlitchDefault_same (d phase : Nat) (ridx : Int) :
    tacGlitchDefault d true d phase ridx = false := by
  simp [tacGlitchDefault]

theorem tacDivisor_pos (tac : Byte) : 0 < tacDivisor tac := by
  unfold tacDivisor Params.freqDiv
  split_ifs <;> decide

theorem tacDivisor_le (tac : Byte) : tacDivisor tac ≤ 1024 := by
  unfold tacDivisor Params.freqDiv
  split_ifs <;> decide

end Sys2Proof.Machine
end

