-- ==== Sys2Proof/Tests/Slice0.lean ====
section
/-! SUPPORT. The model's own tests: ill-formed operations are refused, a word written out for every row of
the operation tables of spec/30_encoding.md R101, R110 and R112 decodes to its operation, single operations
on small states give what spec/95_test_vectors.md says, and for every statement of the obligations that has
hypotheses, concrete states and operands that meet them (`witness_<Name>`). -/

namespace Sys2Proof.Tests

open Sys2Proof Sys2Proof.Machine Sys2Proof.Claims

/-! ### Helpers -/

/-- The state an operation ends in. -/
def reached (o : Answer) : Option State :=
  match o with
  | .next s => some s
  | .fault _ => none
  | .refused _ => none

/-- Why an operation was refused. -/
def refusal (o : Answer) : Option Refusal :=
  match o with
  | .next _ => none
  | .fault _ => none
  | .refused r => some r

/-- What an operation returns. -/
def returned (o : Answer) : Option OpResult := (reached o).map fun s => s.host.result

/-- The timer an operation leaves. -/
def timerOf (o : Answer) : Option Timer := (reached o).map fun s => s.tmr

/-- The video interface an operation leaves. -/
def videoOf (o : Answer) : Option Video := (reached o).map fun s => s.vi

/-- After `POR`, with this timer. -/
def withTimerState (t : Timer) : State := { State.reset with tmr := t }

/-- After `POR`, with this video interface. -/
def withVideoState (v : Video) : State := { State.reset with vi := v }

/-- After `POR`, with these events issued. -/
def withEvents (l : List HostEvent) : State :=
  { State.reset with host := { State.reset.host with inbox := l } }

/-- TAC 5 (divisor 16, enabled), nothing pending: the state most timer vectors start from. -/
def running : Timer := { timerAfterPor with tac := 5, oldTac := 5, divResetIndex := -1 }

/-- The 2 x 2 geometry of vectors C12 and C13 in pixel format `fmt`, source at `org`. -/
def geometry (fmt : Word) (org : BitVec 24) : Video :=
  { videoAfterPor with
    ctrl := fmt, origin := org, srcBound := true, viWidth := 2, hEnd := 2, vEnd := 4 }

/-- That geometry over sixteen bytes of DRAM with these contents. -/
def frameState (fmt : Word) (org : BitVec 24) (m : Memory) : State :=
  { State.reset with
    vi := geometry fmt org, env := { dramAttached := true, dramSize := 16, dram := m } }

/-- Program P5 before its redraw. -/
def stateP5 : State :=
  { State.reset with
    vi := { geometry 2 0x100 with viWidth := 4 }
    env := { dramAttached := true, dramSize := 0x200,
             dram := [(0x100, 0xF8), (0x101, 0x01), (0x102, 0x07), (0x103, 0xC1), (0x109, 0x3E),
               (0x10A, 0x7F), (0x10B, 0xFF)] } }

/-! ### WellFormed: each check refuses an ill-formed term and accepts its neighbour -/

theorem test_wf_busRd8Other : wellFormed (.busRd8Other 0xFF04#16) = false ∧
    wellFormed (.busRd8Other 0xFF08#16) = true := by decide
theorem test_wf_busWr8Other : wellFormed (.busWr8Other 0xFF0F#16 0#8) = false ∧
    wellFormed (.busWr8Other 0xFF0E#16 0#8) = true := by decide
theorem test_wf_viRd32Unmapped : wellFormed (.viRd32Unmapped 0x04400034#32) = false ∧
    wellFormed (.viRd32Unmapped 0x04400035#32) = true := by decide
theorem test_wf_viWr32Unmapped : wellFormed (.viWr32Unmapped 0x04400000#32 0#32) = false ∧
    wellFormed (.viWr32Unmapped 0x04400038#32 0#32) = true := by decide

/-! ### Decode: a word for every row, laid out from R100, R101, R110 and R112 -/

theorem test_decode_por :
    decodeTableWord 80 0x00000000000000000000 = some .por := by decide
theorem test_decode_tReset :
    decodeTableWord 80 0x01000000000000000000 = some .tReset := by decide
theorem test_decode_tUpdate :
    decodeTableWord 80 0x02FF000000000000001F = some (.tUpdate 0xFF#8 0x1F#8) := by decide
theorem test_decode_busRd8Div :
    decodeTableWord 80 0x10000000FF0400000000 = some .busRd8Div := by decide
theorem test_decode_busRd8Tima :
    decodeTableWord 80 0x10000000FF0500000000 = some .busRd8Tima := by decide
theorem test_decode_busRd8Tma :
    decodeTableWord 80 0x10000000FF0600000000 = some .busRd8Tma := by decide
theorem test_decode_busRd8Tac :
    decodeTableWord 80 0x10000000FF0700000000 = some .busRd8Tac := by decide
theorem test_decode_busRd8If :
    decodeTableWord 80 0x10000000FF0F00000000 = some .busRd8If := by decide
theorem test_decode_busRd8Other :
    decodeTableWord 80 0x10000000FF0800000000 = some (.busRd8Other 0xFF08#16) := by decide
theorem test_decode_busWr8Div :
    decodeTableWord 80 0x11000000FF04000000A5 = some (.busWr8Div 0xA5#8) := by decide
theorem test_decode_busWr8Tima :
    decodeTableWord 80 0x11000000FF05000000A5 = some (.busWr8Tima 0xA5#8) := by decide
theorem test_decode_busWr8Tma :
    decodeTableWord 80 0x11000000FF06000000A5 = some (.busWr8Tma 0xA5#8) := by decide
theorem test_decode_busWr8Tac :
    decodeTableWord 80 0x11000000FF07000000A5 = some (.busWr8Tac 0xA5#8) := by decide
theorem test_decode_busWr8If :
    decodeTableWord 80 0x11000000FF0F000000A5 = some (.busWr8If 0xA5#8) := by decide
theorem test_decode_busWr8Other :
    decodeTableWord 80 0x11000000FF08000000A5 = some (.busWr8Other 0xFF08#16 0xA5#8) := by decide
theorem test_decode_viRd32Ctrl :
    decodeTableWord 80 0x20000440000000000000 = some .viRd32Ctrl := by decide
theorem test_decode_viRd32Origin :
    decodeTableWord 80 0x20000440000400000000 = some .viRd32Origin := by decide
theorem test_decode_viRd32Width :
    decodeTableWord 80 0x20000440000800000000 = some .viRd32Width := by decide
theorem test_decode_viRd32VIntr :
    decodeTableWord 80 0x20000440000C00000000 = some .viRd32VIntr := by decide
theorem test_decode_viRd32VCurrent :
    decodeTableWord 80 0x20000440001000000000 = some .viRd32VCurrent := by decide
theorem test_decode_viRd32Burst :
    decodeTableWord 80 0x20000440001400000000 = some .viRd32Burst := by decide
theorem test_decode_viRd32VSync :
    decodeTableWord 80 0x20000440001800000000 = some .viRd32VSync := by decide
theorem test_decode_viRd32HSync :
    decodeTableWord 80 0x20000440001C00000000 = some .viRd32HSync := by decide
theorem test_decode_viRd32HSyncLeap :
    decodeTableWord 80 0x20000440002000000000 = some .viRd32HSyncLeap := by decide
theorem test_decode_viRd32HVideo :
    decodeTableWord 80 0x20000440002400000000 = some .viRd32HVideo := by decide
theorem test_decode_viRd32VVideo :
    decodeTableWord 80 0x20000440002800000000 = some .viRd32VVideo := by decide
theorem test_decode_viRd32VBurst :
    decodeTableWord 80 0x20000440002C00000000 = some .viRd32VBurst := by decide
theorem test_decode_viRd32XScale :
    decodeTableWord 80 0x20000440003000000000 = some .viRd32XScale := by decide
theorem test_decode_viRd32YScale :
    decodeTableWord 80 0x20000440003400000000 = some .viRd32YScale := by decide
theorem test_decode_viRd32Unmapped :
    decodeTableWord 80 0x20000440003800000000 = some (.viRd32Unmapped 0x04400038#32) := by decide
theorem test_decode_viWr32Ctrl :
    decodeTableWord 80 0x210004400000A0123456 = some (.viWr32Ctrl 0xA0123456#32) := by decide
theorem test_decode_viWr32Origin :
    decodeTableWord 80 0x210004400004A0123456 = some (.viWr32Origin 0xA0123456#32) := by decide
theorem test_decode_viWr32Width :
    decodeTableWord 80 0x210004400008A0123456 = some (.viWr32Width 0xA0123456#32) := by decide
theorem test_decode_viWr32VIntr :
    decodeTableWord 80 0x21000440000CA0123456 = some (.viWr32VIntr 0xA0123456#32) := by decide
theorem test_decode_viWr32VCurrent :
    decodeTableWord 80 0x210004400010A0123456 = some (.viWr32VCurrent 0xA0123456#32) := by decide
theorem test_decode_viWr32Burst :
    decodeTableWord 80 0x210004400014A0123456 = some (.viWr32Burst 0xA0123456#32) := by decide
theorem test_decode_viWr32VSync :
    decodeTableWord 80 0x210004400018A0123456 = some (.viWr32VSync 0xA0123456#32) := by decide
theorem test_decode_viWr32HSync :
    decodeTableWord 80 0x21000440001CA0123456 = some (.viWr32HSync 0xA0123456#32) := by decide
theorem test_decode_viWr32HSyncLeap :
    decodeTableWord 80 0x210004400020A0123456 = some (.viWr32HSyncLeap 0xA0123456#32) := by decide
theorem test_decode_viWr32HVideo :
    decodeTableWord 80 0x210004400024A0123456 = some (.viWr32HVideo 0xA0123456#32) := by decide
theorem test_decode_viWr32VVideo :
    decodeTableWord 80 0x210004400028A0123456 = some (.viWr32VVideo 0xA0123456#32) := by decide
theorem test_decode_viWr32VBurst :
    decodeTableWord 80 0x21000440002CA0123456 = some (.viWr32VBurst 0xA0123456#32) := by decide
theorem test_decode_viWr32XScale :
    decodeTableWord 80 0x210004400030A0123456 = some (.viWr32XScale 0xA0123456#32) := by decide
theorem test_decode_viWr32YScale :
    decodeTableWord 80 0x210004400034A0123456 = some (.viWr32YScale 0xA0123456#32) := by decide
theorem test_decode_viWr32Unmapped :
    decodeTableWord 80 0x21000440000280000001 = some (.viWr32Unmapped 0x04400002#32 0x80000001#32) := by decide
theorem test_decode_viRedraw :
    decodeTableWord 80 0x22000000000000000000 = some .viRedraw := by decide
theorem test_decode_viVint :
    decodeTableWord 80 0x23000000000000000000 = some .viVint := by decide

/-- E12 to E15: illegal and reserved words. -/
theorem test_decode_rejected :
    decode 0x03000000000000000000#80 = .error (.illegalOp 0x03#8) ∧
    decode 0x01000000000000000001#80 = .error .reserved ∧
    decode 0x11000001FF0700000005#80 = .error .reserved ∧
    decode 0x02140000000000000100#80 = .error .reserved := by decide

/-! ### The timer (spec/95_test_vectors.md, 2.2) -/

/-- `POR` from a used state leaves the reset timer and the blacked-out, empty frame. -/
theorem test_por : (reached (exec .por (withTimerState { running with tima := 9 }))) =
    some State.reset := by decide
/-- T1. -/
theorem test_treset : timerOf (exec .tReset (withTimerState
      { running with tima := 0x7F, oscillator := 0x1234, div := 0x12, ifReg := 4, timaOverflow := true }))
    = some { timerAfterPor with ifReg := 4 } := by decide
/-- T2 and P1: the reload, the request, the cycles of the call counted. -/
theorem test_update_reload : timerOf (exec (.tUpdate 4 0) (withTimerState
      { running with timaOverflow := true, tma := 0x80 }))
    = some { running with tma := 0x80, tima := 0x80, ifReg := 4, timerCounter := 4, oscillator := 4 } := by
  decide
/-- T22: the overflow ends the loop and keeps the remainder. -/
theorem test_update_overflow : (reached (exec (.tUpdate 0 0) (withTimerState
      { running with tima := 0xFE, timerCounter := 40 }))).map
        (fun s => (s.tmr.tima, s.tmr.timaOverflow, s.tmr.timerCounter, s.tmr.ifReg, s.host.result))
    = some (0#8, true, 8, 0#8, .irq true) := by decide
/-- T3 and T4 at step 1, with both readings of decision D10. -/
theorem test_step1 :
    (step1PendingReload false 0 { running with timaOverflow := true, tma := 0x80, ifReg := 1 }).ifReg = 1 ∧
    (step1PendingReload false 0 { running with timaOverflow := true, tima := 0x33 }).ifReg = 4 ∧
    (step1PendingReload true 0 { running with timaOverflow := true, tima := 0x33 }).ifReg = 0 := by decide
/-- T7, T8 and T9 at step 3, divisor 16. -/
theorem test_step3 :
    (step3DivReset 16 { running with divReset := true, divResetIndex := 8, tima := 2 }).tima = 3 ∧
    (step3DivReset 16 { running with divReset := true, divResetIndex := 7, tima := 2 }).tima = 2 ∧
    (step3DivReset 16 { running with divReset := true, divResetIndex := -1, tima := 2 }).tima = 2 := by
  decide
/-- T11, T12, T13 and T14 at step 4, under the spec's default glitch predicate. -/
theorem test_step4 :
    (step4TacChanged tacGlitchDefault 16
      { running with tacChanged := true, tac := 1, timerCounter := 12, tima := 2 }).tima = 3 ∧
    (step4TacChanged tacGlitchDefault 16
      { running with tacChanged := true, tac := 1, timerCounter := 4, tima := 2 }).tima = 2 ∧
    (step4TacChanged tacGlitchDefault 64
      { running with tacChanged := true, tac := 6, timerCounter := 12, tima := 2 }).tima = 3 ∧
    (step4TacChanged tacGlitchDefault 16
      { running with tacChanged := true, oldTac := 1, timerCounter := 12, tima := 2 }).tima = 2 := by
  decide
/-- T18, T19 and T20 at step 6: 1024 does not exceed 1024, 1028 does, and TIMA wraps silently. -/
theorem test_step6 :
    (step6ResetIndex 4 1024 { timerAfterPor with divResetIndex := 1020 }).divResetIndex = 1024 ∧
    (step6ResetIndex 4 1024 { timerAfterPor with divResetIndex := 1024 }).tima = 1 ∧
    step6ResetIndex 8 1024 { timerAfterPor with divResetIndex := 1020, tima := 0xFF } =
      { timerAfterPor with divResetIndex := -1, tima := 0 } := by decide

/-! ### Bus cells (2.3) -/

/-- B1. -/
theorem test_busRd8Div : returned (exec .busRd8Div (withTimerState
    { running with oscillator := 0x1234, div := 0x12 })) = some (.byte 0x12) := by decide
theorem test_busRd8Tima : returned (exec .busRd8Tima (withTimerState
    { running with tima := 0xAB, tma := 0xCD })) = some (.byte 0xAB) := by decide
theorem test_busRd8Tma : returned (exec .busRd8Tma (withTimerState
    { running with tima := 0xAB, tma := 0xCD })) = some (.byte 0xCD) := by decide
/-- B6. -/
theorem test_busRd8Tac : returned (exec .busRd8Tac (withTimerState running)) = some (.byte 5) := by decide
theorem test_busRd8If : returned (exec .busRd8If (withTimerState
    { running with ifReg := 0x1F })) = some (.byte 0x1F) := by decide
/-- B2: the byte is discarded. -/
theorem test_busWr8Div : timerOf (exec (.busWr8Div 0x99) (withTimerState
      { running with oscillator := 0x1234, div := 0x12 }))
    = some { running with oscillator := 0x1234, div := 0x12, divReset := true } := by decide
theorem test_busWr8Tima : timerOf (exec (.busWr8Tima 0xAB) (withTimerState
    { running with timaOverflow := true })) = some { running with timaOverflow := true, tima := 0xAB } := by
  decide
theorem test_busWr8Tma : timerOf (exec (.busWr8Tma 0xCD) (withTimerState running))
    = some { running with tma := 0xCD } := by decide
/-- B5. -/
theorem test_busWr8Tac : timerOf (exec (.busWr8Tac 0xFD) (withTimerState timerAfterPor))
    = some { timerAfterPor with tac := 5, tacChanged := true } := by decide
/-- B9. -/
theorem test_busWr8If : timerOf (exec (.busWr8If 0xFF) (withTimerState running))
    = some { running with ifReg := 0x1F } := by decide
/-- B11. -/
theorem test_bus_other :
    refusal (exec (.busWr8Other 0xFF08 1) State.reset) = some (.busAddressNotOwned 0xFF08) ∧
    refusal (exec (.busRd8Other 0xFF08) State.reset) = some (.busAddressNotOwned 0xFF08) := by decide

/-! ### Video registers (2.4) -/

/-- The values of V1, V2, V5, V7, V8 and V9, told apart by register. -/
def registers : Video :=
  { videoAfterPor with
    ctrl := 0x1FFFF, origin := 0x123456, viWidth := 0xFFF, vIntr := 0x3FF, hStart := 108, hEnd := 748,
    vStart := 37, vEnd := 511, xScale := 0x200, yScale := 0x400 }

theorem test_viRd32_first :
    returned (exec .viRd32Ctrl (withVideoState registers)) = some (.word 0x1FFFF false) ∧
    returned (exec .viRd32Origin (withVideoState registers)) = some (.word 0x123456 false) ∧
    returned (exec .viRd32Width (withVideoState registers)) = some (.word 0xFFF false) ∧
    returned (exec .viRd32VIntr (withVideoState registers)) = some (.word 0x3FF false) := by decide
theorem test_viRd32_second :
    returned (exec .viRd32HVideo (withVideoState registers)) = some (.word 0x006C02EC false) ∧
    returned (exec .viRd32VVideo (withVideoState registers)) = some (.word 0x002501FF false) ∧
    returned (exec .viRd32XScale (withVideoState registers)) = some (.word 0x200 false) ∧
    returned (exec .viRd32YScale (withVideoState registers)) = some (.word 0x400 false) := by decide
/-- V12, V15 and V16. -/
theorem test_viRd32_unbacked :
    returned (exec .viRd32Burst (withVideoState registers)) = some (.word 0 true) ∧
    returned (exec .viRd32VSync (withVideoState registers)) = some (.word 0 true) ∧
    returned (exec .viRd32HSync (withVideoState registers)) = some (.word 0 true) ∧
    returned (exec .viRd32HSyncLeap (withVideoState registers)) = some (.word 0 true) ∧
    returned (exec .viRd32VBurst (withVideoState registers)) = some (.word 0 true) ∧
    returned (exec (.viRd32Unmapped 0x04400038) (withVideoState registers)) = some (.word 0 true) := by
  decide
/-- V14: whatever line the environment presents, the read is done and the draw is used up. -/
theorem test_viRd32VCurrent :
    (reached (exec .viRd32VCurrent State.reset)).map (fun s => (s.vi, s.host.draws)) =
      some (videoAfterPor, 1) := rfl
/-- V1. -/
theorem test_viWr32Ctrl : videoOf (exec (.viWr32Ctrl 0xFFFFFFFF) State.reset)
    = some { videoAfterPor with ctrl := 0x1FFFF } := by decide
/-- V2. -/
theorem test_viWr32Origin : videoOf (exec (.viWr32Origin 0xA0123456) State.reset)
    = some { videoAfterPor with origin := 0x123456, srcBound := true, frameCount := 1 } := by decide
/-- V2b: no DRAM attached. -/
theorem test_viWr32Origin_detached : videoOf (exec (.viWr32Origin 0xA0123456)
      { State.reset with env := { State.reset.env with dramAttached := false } })
    = some { videoAfterPor with origin := 0x123456, srcBound := false, frameCount := 1 } := by decide
theorem test_viWr32Width : videoOf (exec (.viWr32Width 0xFFFFF140) State.reset)
    = some { videoAfterPor with viWidth := 0x140 } := by decide
/-- V4. -/
theorem test_viWr32VIntr : videoOf (exec (.viWr32VIntr 0xFFFFFFFF) State.reset)
    = some { videoAfterPor with vIntr := 0x3FF } := by decide
/-- V13. -/
theorem test_viWr32VCurrent : videoOf (exec (.viWr32VCurrent 5)
      (withVideoState { videoAfterPor with viIrqPending := true })) = some videoAfterPor := by decide
/-- V11, for all five registers. -/
theorem test_viWr32_ignored :
    reached (exec (.viWr32Burst 0x1234) State.reset) = some (State.reset.answer (.diag false)) ∧
    reached (exec (.viWr32VSync 0x1234) State.reset) = some (State.reset.answer (.diag false)) ∧
    reached (exec (.viWr32HSync 0x1234) State.reset) = some (State.reset.answer (.diag false)) ∧
    reached (exec (.viWr32HSyncLeap 0x1234) State.reset) = some (State.reset.answer (.diag false)) ∧
    reached (exec (.viWr32VBurst 0x1234) State.reset) = some (State.reset.answer (.diag false)) := by decide
/-- V5. -/
theorem test_viWr32HVideo : videoOf (exec (.viWr32HVideo 0x006C02EC) State.reset)
    = some { videoAfterPor with hStart := 108, hEnd := 748 } := by decide
/-- V7. -/
theorem test_viWr32VVideo : videoOf (exec (.viWr32VVideo 0x002501FF) State.reset)
    = some { videoAfterPor with vStart := 37, vEnd := 511 } := by decide
/-- V8. -/
theorem test_viWr32XScale : videoOf (exec (.viWr32XScale 0xFFFFF200) State.reset)
    = some { videoAfterPor with xScale := 0x200 } := by decide
/-- V9. -/
theorem test_viWr32YScale : videoOf (exec (.viWr32YScale 0x00001400) State.reset)
    = some { videoAfterPor with yScale := 0x400 } := by decide
/-- V17. -/
theorem test_viWr32Unmapped : reached (exec (.viWr32Unmapped 0x04400038 1) State.reset)
    = some (State.reset.answer (.diag true)) := by decide
/-- V13. -/
theorem test_viVint : videoOf (exec .viVint State.reset)
    = some { videoAfterPor with viIrqPending := true } := by decide

/-! ### VI.REDRAW (2.5 and program P5) -/

/-- P5: the whole 16-bit frame. -/
theorem test_viRedraw16 : (videoOf (exec .viRedraw stateP5)).map (fun v => (v.fbW, v.fbH, v.fb)) =
    some (2, 2, [0xFF, 0x00, 0x00, 0xFF, 0x00, 0xFF, 0x00, 0xFF, 0x00, 0x00, 0xFF, 0xFF,
      0x7B, 0xFF, 0xFF, 0xFF]) := by decide
/-- C12 and C9: refusals of a redraw. -/
theorem test_viRedraw_refused :
    refusal (exec .viRedraw (frameState 3 4 [])) = some .sourceOutsideDram ∧
    refusal (exec .viRedraw (withVideoState { geometry 3 0 with hStart := 5, hEnd := 4 })) =
      some .extentsReversed := by decide
/-- C2, C5, C7 and C8: dimensions. -/
theorem test_dimensions :
    scaledWidth registers = 320 ∧ scaledHeight registers = 237 ∧
    scaledWidth { videoAfterPor with hEnd := 1, xScale := 0x200 } = 0 ∧
    scaledWidth { videoAfterPor with hEnd := 1023, xScale := 0xFFF } = 4091 ∧
    scaledHeight { videoAfterPor with vEnd := 1023, yScale := 0xFFF } = 2043 ∧
    scaledHeight { videoAfterPor with vEnd := 480, yScale := 0x800 } = 480 := by decide
/-- The pixel table of 2.5. -/
theorem test_pixels :
    rgbaOf16 0x0001 = [0x00, 0x00, 0x00, 0xFF] ∧ rgbaOf16 0xFFFE = [0xFF, 0xFF, 0xFF, 0xFF] ∧
    rgbaOf16 0xF801 = [0xFF, 0x00, 0x00, 0xFF] ∧ rgbaOf16 0x7FFF = [0x7B, 0xFF, 0xFF, 0xFF] ∧
    rgbaOf16 0x8421 = [0x84, 0x84, 0x84, 0xFF] ∧ rgbaOf16 0x0842 = [0x08, 0x08, 0x08, 0xFF] := by decide

/-! ### Witnesses: the hypotheses of each statement are met -/

theorem witness_DecodeOfEncode : wellFormed (.tUpdate 255 0x1F) = true ∧
    wellFormed (.busWr8Other 0xFF03 0) = true ∧ wellFormed (.viRd32Unmapped 0x043FFFFC) = true := by decide

theorem witness_EncodeOfDecode :
    decode 0x11000000FF0700000005#80 = .ok (.busWr8Tac 0x05#8) := by decide

/-- One descriptor for each clause. -/
theorem witness_IllegalAndReservedDescriptors :
    (0xFF000000000000000000#80).extractLsb' 72 8 ∉
      [0x00#8, 0x01#8, 0x02#8, 0x10#8, 0x11#8, 0x20#8, 0x21#8, 0x22#8, 0x23#8] ∧
    ((0x00800000000000000000#80).extractLsb' 72 8 = 0x00#8 ∧
      (0x00800000000000000000#80).extractLsb' 0 72 ≠ 0) ∧
    ((0x02FF0000000000000100#80).extractLsb' 72 8 = 0x02#8 ∧
      (0x02FF0000000000000100#80).extractLsb' 8 24 ≠ 0) ∧
    ((0x10000001FF0400000000#80).extractLsb' 72 8 = 0x10#8 ∧
      (0x10000001FF0400000000#80).extractLsb' 48 24 ≠ 0) ∧
    ((0x11000000FF0480000000#80).extractLsb' 72 8 = 0x11#8 ∧
      (0x11000000FF0480000000#80).extractLsb' 8 24 ≠ 0) ∧
    ((0x20000440000000000001#80).extractLsb' 72 8 = 0x20#8 ∧
      (0x20000440000000000001#80).extractLsb' 0 32 ≠ 0) ∧
    ((0x21010440000000000000#80).extractLsb' 72 8 = 0x21#8 ∧
      (0x21010440000000000000#80).extractLsb' 64 8 ≠ 0) := by decide

/-- A legal, an illegal and a reserved descriptor at the head of the inbox. -/
theorem witness_StepRunsTheIssuedOperation :
    ((withEvents [.issue 0x23000000000000000000#80]).host.inbox = [.issue 0x23000000000000000000#80] ∧
      decode 0x23000000000000000000#80 = .ok .viVint) ∧
    ((withEvents [.issue 0x24000000000000000000#80]).host.inbox = [.issue 0x24000000000000000000#80] ∧
      decode 0x24000000000000000000#80 = .error (.illegalOp 0x24#8)) ∧
    ((withEvents [.issue 0x23000000000000000001#80]).host.inbox = [.issue 0x23000000000000000001#80] ∧
      decode 0x23000000000000000001#80 = .error .reserved) := by decide

theorem witness_PlacedWordRuns : decodeTableWord 80 0x02140000000000000000 = some (.tUpdate 20 0) := by
  decide

/-- Nothing issued; a store to the last DRAM byte; a store just past it; a store with no DRAM. -/
theorem witness_StepWithoutAnOperation :
    State.reset.host.inbox = [] ∧
    ((withEvents [.dramStore 0x00FFFFFF 7]).host.inbox = [.dramStore 0x00FFFFFF 7] ∧
      Memory.wf (withEvents [.dramStore 0x00FFFFFF 7]).env.dram = true ∧
      (withEvents [.dramStore 0x00FFFFFF 7]).env.dramAttached = true ∧
      0x00FFFFFF < (withEvents [.dramStore 0x00FFFFFF 7]).env.dramSize) ∧
    ((withEvents [.dramStore 0x01000000 7]).host.inbox = [.dramStore 0x01000000 7] ∧
      (withEvents [.dramStore 0x01000000 7]).env.dramSize ≤ 0x01000000) ∧
    ({ withEvents [.dramStore 0 7] with
      env := { State.reset.env with dramAttached := false } } : State).env.dramAttached = false := by decide

theorem witness_TResetZeroesTheTimer :
    (withTimerState { running with tima := 7 }).host.porDone = true := by decide

theorem witness_NothingBeforePor :
    ({ State.reset with host := { State.reset.host with porDone := false } } : State).host.porDone = false ∧
    Instr.tReset ≠ .por := by decide

theorem witness_NoOperationFaults :
    step (withEvents [.dramStore 0x01000000 7]) = .fault (.dramOffsetAbsent 0x01000000) := rfl

theorem witness_UpdateAdvancesTheOscillator :
    (withTimerState { running with divReset := true }).host.porDone = true := by decide

theorem witness_UpdateFrame : ∃ t, exec (.tUpdate 12 0)
    (withTimerState { running with tima := 0xFF, timerCounter := 4 }) = .next t ∧
      t.tmr.timaOverflow = true := ⟨_, rfl, rfl⟩

theorem witness_UpdateRequestsOnlyForAPendingOverflow : ∃ t, exec (.tUpdate 4 0)
    (withTimerState { running with timaOverflow := true }) = .next t := ⟨_, rfl⟩

/-- T2: an enabled timer with an overflow pending, where TIMA is 0 and where it was written; and a stopped
one. -/
theorem witness_PendingReload :
    (∀ t ∈ [{ running with timaOverflow := true, tma := 0x80 },
        { running with timaOverflow := true, tima := 0x33 },
        { running with timaOverflow := true, tac := 1 }],
      (withTimerState t).host.porDone = true ∧ t.timaOverflow = true ∧ t.divReset = false ∧
        t.tacChanged = false ∧ t.divResetIndex = -1) ∧
    ⟨4, 0x80, false⟩ = counted running.tac 4 0 0x80 := by decide

/-- T7 and T10: divisor 16, the index at the threshold 8, enabled and disabled; a call of 17 cycles exceeds
the divisor too. -/
theorem witness_DividerReset :
    (∀ t ∈ [{ running with divReset := true, divResetIndex := 8, tima := 2 },
        { running with divReset := true, divResetIndex := 8, tima := 2, tac := 1 }],
      (withTimerState t).host.porDone = true ∧ t.timaOverflow = false ∧ t.divReset = true ∧
        t.tacChanged = false ∧ 16 = divisorOf t.tac) ∧
    ⟨0, 3, false⟩ = counted running.tac 0 0 (2 + oneIf (((16 / 2 : Nat) : Int) ≤ 8) + oneIf (16 < 0)) := by
  decide

/-- A timer that was disabled, and one whose TAC is what it was. -/
theorem witness_HarmlessTacWrite :
    ({ running with oldTac := 1 } : Timer).oldTac.getLsbD 2 = false ∧ running.oldTac = running.tac := by
  decide

/-- The example of R131 and program P1: at the divisor and past it, enabled and disabled. -/
theorem witness_ResetIndexTracking :
    (∀ t ∈ [{ running with divResetIndex := 0 }, { running with divResetIndex := 16, tac := 1 }],
      (withTimerState t).host.porDone = true ∧ t.timaOverflow = false ∧ t.divReset = false ∧
        t.tacChanged = false ∧ 16 = divisorOf t.tac) ∧
    ⟨4, 2, false⟩ = counted running.tac 20 0
      (0 + oneIf ((0 : Int) ≠ -1 ∧ ((16 : Nat) : Int) < 0 + ((20#8).toNat : Int))) := by decide

/-- A state with an overflow pending and both signals set. -/
theorem witness_UpdateInClosedForm :
    (withTimerState
      { running with
        timaOverflow := true, tma := 0x80, divReset := true, tacChanged := true,
        divResetIndex := 8 }).host.porDone = true ∧
    resetBumps { running with divReset := true, divResetIndex := 8 } = true ∧
    indexBumps running 17 = false := by decide

theorem witness_CountLoopClosedForm : 0 < Params.freqDiv 1 := by decide

/-- At the last count that fits and at the first that wraps. -/
theorem witness_CountingAtTheSelectedRate :
    (withTimerState { running with tima := 0xFE }).host.porDone = true ∧
    quiet { running with tima := 0xFE } ∧ running.tac.getLsbD 2 = true ∧
    16 = Params.freqDiv (running.tac.extractLsb' 0 2) ∧ 1 = (0 + (16 : Byte).toNat) / 16 ∧
    2 = (0 + (32 : Byte).toNat) / 16 := by
  exact ⟨rfl, ⟨rfl, rfl, rfl, rfl⟩, rfl, rfl, rfl, rfl⟩

theorem witness_RemainderBelowTheDivisor : ∃ t, exec (.tUpdate 20 0) (withTimerState running) = .next t ∧
    running.tac.getLsbD 2 = true ∧ t.host.result = .irq false := ⟨_, rfl, rfl, rfl⟩

theorem witness_UpdatesAddUp : State.reset.host.porDone = true ∧ State.reset.tmr.divReset = false ∧
    State.reset.tmr.div = State.reset.tmr.oscillator.extractLsb' 8 8 ∧
    State.reset.tmr.oscillator.toNat % 256 = 0 := by decide

theorem witness_RequestKeptWhereTheWindowDoesNotWriteIf :
    (withTimerState { running with timaOverflow := true }).tmr.timaOverflow = true ∧
    (∀ i ∈ [Instr.busWr8Tima 0x33, .viRd32Ctrl], keepsRequest i = true) ∧
    ∃ t, tStep 4 [.busWr8Tima 0x33, .viRd32Ctrl]
      (withTimerState { running with timaOverflow := true }) = .next t :=
  ⟨rfl, by decide, _, rfl⟩

theorem witness_BusReads : (withTimerState running).host.porDone = true := by decide

/-- The overflow-delay window, a non-zero byte for TIMA, TIMA still 0. -/
theorem witness_CounterWrites :
    (withTimerState { running with timaOverflow := true }).host.porDone = true ∧
    ({ running with timaOverflow := true } : Timer).timaOverflow = true ∧ (0x01#8) ≠ 0 ∧
    ({ running with timaOverflow := true } : Timer).tima = 0 := by decide

theorem witness_SignalWrites : (withTimerState running).host.porDone = true := by decide

theorem witness_DivWriteIsSeenOneUpdateLate :
    (withTimerState { running with oscillator := 0x1234, div := 0x12 }).host.porDone = true := by decide

/-- The neighbours of the owned addresses. -/
theorem witness_ForeignBusAddressesRefused : State.reset.host.porDone = true ∧
    0xFF03#16 ∉ [Params.addrDiv, Params.addrTima, Params.addrTma, Params.addrTac, Params.addrIf] ∧
    0xFF08#16 ∉ [Params.addrDiv, Params.addrTima, Params.addrTma, Params.addrTac, Params.addrIf] ∧
    0xFF0E#16 ∉ [Params.addrDiv, Params.addrTima, Params.addrTma, Params.addrTac, Params.addrIf] ∧
    0xFF10#16 ∉ [Params.addrDiv, Params.addrTima, Params.addrTma, Params.addrTac, Params.addrIf] := by
  decide

theorem witness_DevicesShareNoState :
    (isTimerOp .busRd8If = true ∧ ∃ t, exec .busRd8If State.reset = .next t) ∧
    (isVideoOp .viRedraw = true ∧ ∃ t, exec .viRedraw State.reset = .next t) :=
  ⟨⟨rfl, _, rfl⟩, rfl, _, rfl⟩

/-- Two states with the same timer and different video interfaces and DRAM. -/
theorem witness_TimerSeesOnlyTheTimer :
    isTimerOp (.tUpdate 4 0) = true ∧ State.reset.tmr = (frameState 3 0 [(1, 9)]).tmr ∧
    State.reset.host.porDone = (frameState 3 0 [(1, 9)]).host.porDone ∧
    State.reset ≠ frameState 3 0 [(1, 9)] ∧ ∃ t, exec (.tUpdate 4 0) State.reset = .next t :=
  ⟨rfl, rfl, rfl, by decide, _, rfl⟩

theorem witness_FrameChangesOnlyAtARedraw :
    (∃ t, exec (.viWr32Ctrl 0) (frameState 3 0 []) = .next t) ∧ Instr.viWr32Ctrl 0 ≠ .por ∧
    Instr.viWr32Ctrl 0 ≠ .viRedraw ∧ ∀ v, Instr.viWr32Ctrl 0 ≠ .viWr32Origin v :=
  ⟨⟨_, rfl⟩, by decide, by decide, fun _ h => by cases h⟩

theorem witness_VideoRegisterReads : (withVideoState registers).host.porDone = true := by decide

/-- Just past the map, a misaligned address inside it, and just below it. -/
theorem witness_UnmappedVideoAddresses : State.reset.host.porDone = true ∧
    (∀ k : Nat, k < 14 → 0x04400038#32 ≠ Params.viBase + BitVec.ofNat 32 (4 * k)) ∧
    (∀ k : Nat, k < 14 → 0x04400002#32 ≠ Params.viBase + BitVec.ofNat 32 (4 * k)) ∧
    (∀ k : Nat, k < 14 → 0x043FFFFC#32 ≠ Params.viBase + BitVec.ofNat 32 (4 * k)) := by decide

theorem witness_StatusOnlyRegisters : (withVideoState registers).host.porDone = true := by decide

theorem witness_CurrentLineIsAnInput : (withVideoState registers).host.porDone = true := by decide

theorem witness_VideoRegisterWrites : (withVideoState registers).host.porDone = true := by decide

theorem witness_OriginWrite :
    (withVideoState { videoAfterPor with frameCount := 0xFFFFFFFF }).host.porDone = true := by decide

theorem witness_CurrentLineWriteClears : State.reset.host.porDone = true ∧
    State.reset.vi.viIrqPending = false := by decide

theorem witness_VerticalInterruptBecomesPending : State.reset.host.porDone = true := by decide

theorem witness_WriteThenRead : State.reset.host.porDone = true := by decide

theorem witness_RedrawRefusesReversedExtents :
    (withVideoState { geometry 3 0 with hStart := 5, hEnd := 4 }).host.porDone = true := by decide

theorem witness_RedrawDimensionsAndFrame : ∃ t, exec .viRedraw stateP5 = .next t := ⟨_, rfl⟩

/-- A rendered frame that is then disabled, a device after `POR`, and the invariant's premise. -/
theorem witness_RedrawBlacksOut :
    ((frameState 0 0 []).host.porDone = true ∧ extentsOk (geometry 0 0) ∧ blackout (geometry 0 0)) ∧
    VideoInv videoAfterPor :=
  ⟨⟨rfl, by unfold extentsOk; decide, by unfold blackout widthOf heightOf; decide⟩,
    ⟨by decide, by decide, by decide, by decide, by decide, by decide, by decide⟩⟩

theorem witness_BlackedOutIsTheCondition :
    (∃ t, exec .viRedraw stateP5 = .next t) ∧
    (∃ t, exec (.viWr32Ctrl 0) stateP5 = .next t) ∧ Instr.viWr32Ctrl 0 ≠ .viRedraw ∧
    Instr.viWr32Ctrl 0 ≠ .por := ⟨⟨_, rfl⟩, ⟨_, rfl⟩, by decide, by decide⟩

/-- C13: the window ends exactly where DRAM does. -/
theorem witness_RedrawCopies32 :
    (frameState 3 0 [(1, 9)]).host.porDone = true ∧ extentsOk (geometry 3 0) ∧
    ¬ blackout (geometry 3 0) ∧ (geometry 3 0).ctrl.toNat % 4 = 3 ∧
    (frameState 3 0 [(1, 9)]).env.dramAttached = true ∧
    windowEndOf (geometry 3 0) 4 ≤ (frameState 3 0 [(1, 9)]).env.dramSize ∧
    1 < widthOf (geometry 3 0) ∧ 1 < heightOf (geometry 3 0) :=
  ⟨rfl, by unfold extentsOk; decide, by unfold blackout widthOf heightOf; decide, rfl, rfl,
    by decide, by decide, by decide⟩

/-- The same sixteen bytes end the window of a 16-bit frame at offset 8. -/
theorem witness_RedrawConverts16 :
    (frameState 2 8 [(9, 9)]).host.porDone = true ∧ extentsOk (geometry 2 8) ∧
    ¬ blackout (geometry 2 8) ∧ (geometry 2 8).ctrl.toNat % 4 = 2 ∧
    (frameState 2 8 [(9, 9)]).env.dramAttached = true ∧
    windowEndOf (geometry 2 8) 2 ≤ (frameState 2 8 [(9, 9)]).env.dramSize ∧
    1 < widthOf (geometry 2 8) ∧ 1 < heightOf (geometry 2 8) :=
  ⟨rfl, by unfold extentsOk; decide, by unfold blackout widthOf heightOf; decide, rfl, rfl,
    by decide, by decide, by decide⟩

theorem witness_RedrawKeepsOtherFormats :
    (frameState 1 0 []).host.porDone = true ∧ extentsOk (geometry 1 0) ∧
    ¬ blackout (geometry 1 0) ∧ (geometry 1 0).ctrl.toNat % 4 = 1 :=
  ⟨rfl, by unfold extentsOk; decide, by unfold blackout widthOf heightOf; decide, rfl⟩

/-- Both formats, one pixel past the end of DRAM. -/
theorem witness_RedrawRefusesOutsideDram :
    ((frameState 3 4 []).host.porDone = true ∧ extentsOk (geometry 3 4) ∧ ¬ blackout (geometry 3 4) ∧
      (geometry 3 4).ctrl.toNat % 4 = 3 ∧ (frameState 3 4 []).env.dramSize < windowEndOf (geometry 3 4) 4) ∧
    ((frameState 2 9 []).host.porDone = true ∧ extentsOk (geometry 2 9) ∧ ¬ blackout (geometry 2 9) ∧
      (geometry 2 9).ctrl.toNat % 4 = 2 ∧ (frameState 2 9 []).env.dramSize < windowEndOf (geometry 2 9) 2) :=
  ⟨⟨rfl, by unfold extentsOk; decide, by unfold blackout widthOf heightOf; decide, rfl, by decide⟩,
    rfl, by unfold extentsOk; decide, by unfold blackout widthOf heightOf; decide, rfl, by decide⟩

theorem witness_RedrawTwiceIsRedrawOnce : ∃ t, exec .viRedraw stateP5 = .next t := ⟨_, rfl⟩

/-- Two memories that agree on the window 0 to 7 of a 16-bit frame and differ beyond it. -/
theorem witness_RedrawReadsOnlyItsWindow :
    (frameState 2 0 [(1, 9)]).vi = (frameState 2 0 [(1, 9), (8, 3)]).vi ∧
    (∀ a, a < windowEndOf (geometry 2 0) 2 →
      Memory.read (frameState 2 0 [(1, 9)]).env.dram a =
        Memory.read (frameState 2 0 [(1, 9), (8, 3)]).env.dram a) ∧
    (∃ t, exec .viRedraw (frameState 2 0 [(1, 9)]) = .next t) ∧
    frameState 2 0 [(1, 9)] ≠ frameState 2 0 [(1, 9), (8, 3)] :=
  ⟨rfl, by decide, ⟨_, rfl⟩, by decide⟩

theorem witness_ExpansionTable : (30#5).toNat < (31#5).toNat := by decide

/-- A state with a DRAM byte, an enabled timer and a format selected meets the invariant and steps. -/
theorem witness_StepKeepsTheInvariant :
    Inv { frameState 2 0 [(1, 9)] with tmr := running } ∧
    ∃ t, step { frameState 2 0 [(1, 9)] with tmr := running } = .next t :=
  ⟨⟨⟨by decide, by decide, by decide, by decide, by decide, by decide⟩,
    ⟨by decide, by decide, by decide, by decide, by decide, by decide, by decide⟩,
    ⟨by decide, by decide⟩⟩, _, rfl⟩

end Sys2Proof.Tests
end

section
/-! SUPPORT. The family of spec/40_timer.md: the oscillator under `T.UPDATE`, and the reads and writes of
the bus cells. -/

namespace Sys2Proof.Proofs

open Sys2Proof.Machine

/-! ### What the operations of the timer and the bus answer after `POR` -/

theorem exec_tUpdate {s : State} (hp : s.host.porDone = true) (c : Cycles) (f : Byte) :
    exec (.tUpdate c f) s =
      .next ((s.withTimer (timerUpdate tacGlitch Params.ifRaiseNested c f s.tmr).1).answer
        (.irq (timerUpdate tacGlitch Params.ifRaiseNested c f s.tmr).2)) :=
  doneTimer_of_porDone hp _ _

theorem exec_busRd8Div {s : State} (hp : s.host.porDone = true) :
    exec .busRd8Div s = .next (s.answer (.byte s.tmr.div)) := doneRead_of_porDone hp _

theorem exec_busRd8Tima {s : State} (hp : s.host.porDone = true) :
    exec .busRd8Tima s = .next (s.answer (.byte s.tmr.tima)) := doneRead_of_porDone hp _

theorem exec_busRd8Tma {s : State} (hp : s.host.porDone = true) :
    exec .busRd8Tma s = .next (s.answer (.byte s.tmr.tma)) := doneRead_of_porDone hp _

theorem exec_busRd8Tac {s : State} (hp : s.host.porDone = true) :
    exec .busRd8Tac s = .next (s.answer (.byte s.tmr.tac)) := doneRead_of_porDone hp _

theorem exec_busRd8If {s : State} (hp : s.host.porDone = true) :
    exec .busRd8If s = .next (s.answer (.byte s.tmr.ifReg)) := doneRead_of_porDone hp _

theorem exec_busWr8Tima {s : State} (hp : s.host.porDone = true) (v : Byte) :
    exec (.busWr8Tima v) s = .next ((s.withTimer { s.tmr with tima := v }).answer .none) :=
  doneTimer_of_porDone hp _ _

theorem exec_busWr8Tma {s : State} (hp : s.host.porDone = true) (v : Byte) :
    exec (.busWr8Tma v) s = .next ((s.withTimer { s.tmr with tma := v }).answer .none) :=
  doneTimer_of_porDone hp _ _

theorem exec_busRd8Other {s : State} (hp : s.host.porDone = true) (a : BusAddr) :
    exec (.busRd8Other a) s = .refused (.busAddressNotOwned a) := afterPor_of_porDone hp _

theorem exec_busWr8Other {s : State} (hp : s.host.porDone = true) (a : BusAddr) (v : Byte) :
    exec (.busWr8Other a v) s = .refused (.busAddressNotOwned a) := afterPor_of_porDone hp _

/-! ### The oscillator -/

/-- `DIV` as a number (R145): the byte above bit 8 of the 16-bit oscillator. -/
theorem toNat_highByte (o : Oscillator) : (o.extractLsb' 8 8).toNat = o.toNat / 256 := by
  have ho : o.toNat < 65536 := o.isLt
  rw [BitVec.extractLsb'_toNat, Nat.shiftRight_eq_div_pow]
  omega

/-- The oscillator counts modulo 65536; the 8-bit operand is widened, never cut. -/
theorem toNat_oscillator_add (o : Oscillator) (c : Cycles) :
    (o + c.setWidth Params.oscW).toNat = (o.toNat + c.toNat) % 65536 := by
  rw [BitVec.toNat_add, BitVec.toNat_setWidth_of_le (by decide)]
  rfl

theorem timerUpdate_oscillator (g : TacGlitch) (n : Bool) (c : Cycles) (f : Byte) (t : Timer) :
    (timerUpdate g n c f t).1.oscillator =
      (if t.divReset then 0 else t.oscillator) + c.setWidth Params.oscW := by
  obtain ⟨-, -, -, -, -, -, -, hosc, -⟩ := timerUpdate_fields g n c f t
  exact hosc

theorem timerUpdate_div (g : TacGlitch) (n : Bool) (c : Cycles) (f : Byte) (t : Timer) :
    (timerUpdate g n c f t).1.div = (timerUpdate g n c f t).1.oscillator.extractLsb' 8 8 := by
  obtain ⟨-, -, -, -, -, -, -, -, hdiv⟩ := timerUpdate_fields g n c f t
  exact hdiv

/-- Settles O15: step 5 is the only step that advances the oscillator, and step 3 the only one that
zeroes it first. -/
theorem updateAdvancesTheOscillator : Obligations.UpdateAdvancesTheOscillator := by
  intro s c f hp
  refine ⟨_, exec_tUpdate hp c f, ?_, ?_⟩
  · rw [answer_tmr, withTimer_tmr, timerUpdate_oscillator, toNat_oscillator_add]
    cases s.tmr.divReset <;> rfl
  · rw [answer_tmr, withTimer_tmr, timerUpdate_div, toNat_highByte]

/-! ### Bus cells -/

/-- Settles O28: each address picks its read in `busRead`, and a read is an answer alone (R77). -/
theorem busReads : Obligations.BusReads := fun _ hp =>
  ⟨⟨rfl, exec_busRd8Div hp⟩, ⟨rfl, exec_busRd8Tima hp⟩, ⟨rfl, exec_busRd8Tma hp⟩,
    ⟨rfl, exec_busRd8Tac hp⟩, ⟨rfl, exec_busRd8If hp⟩⟩

/-- Step 1 in the window keeps a TIMA that is no longer 0: the reload is cancelled (R158). -/
theorem step1_tima_kept {t : Timer} (h : t.timaOverflow = true) (hz : t.tima ≠ 0) (n : Bool) (f : Byte) :
    (step1PendingReload n f t).tima = t.tima := by
  rw [step1_pending h]
  exact if_neg hz

/-- Step 1 in the window loads a TIMA that still reads 0 from the TMA of that moment (R159). -/
theorem step1_tima_reloaded {t : Timer} (h : t.timaOverflow = true) (hz : t.tima = 0) (n : Bool)
    (f : Byte) : (step1PendingReload n f t).tima = t.tma := by
  rw [step1_pending h]
  exact if_pos hz

/-- Settles O29: the two whole next states, then step 1 of the written timer by whether its TIMA is 0. -/
theorem counterWrites : Obligations.CounterWrites := by
  intro s v hp
  refine ⟨exec_busWr8Tima hp v, exec_busWr8Tma hp v, fun n f hov => ⟨fun hv => ?_, fun hz => ?_⟩⟩
  · exact step1_tima_kept (t := { s.tmr with tima := v }) hov hv n f
  · exact step1_tima_reloaded (t := { s.tmr with tma := v }) hov hz n f

/-- An address outside the five is not owned by the block (R71, R162). -/
theorem busOwned_eq_false_of_notMem {a : BusAddr}
    (h : a ∉ [Params.addrDiv, Params.addrTima, Params.addrTma, Params.addrTac, Params.addrIf]) :
    busOwned a = false := by
  cases ho : busOwned a with
  | false => rfl
  | true => exact absurd (by simpa using busOwned_cases ho) h

/-- Settles O32: an address that is not owned selects the foreign access, whose meaning is the refusal. -/
theorem foreignBusAddressesRefused : Obligations.ForeignBusAddressesRefused := by
  intro s a v hp ha
  have ho : busOwned a = false := busOwned_eq_false_of_notMem ha
  exact ⟨busRead_other ho, busWrite_other ho v, exec_busRd8Other hp a, exec_busWr8Other hp a v⟩

end Sys2Proof.Proofs
end

section
/-! SUPPORT. The family of spec/41_video_registers.md: the reads and writes of the video registers, the
write that clears the pending vertical interrupt, and the addresses outside the register map. -/

namespace Sys2Proof.Proofs

open Sys2Proof.Machine Sys2Proof.Claims

/-! ### What a register access answers after `POR` -/

theorem readMapped_of_porDone {s : State} (hp : s.host.porDone = true) (v : Word) :
    readMapped s v = .next (wordReturned s v) := doneRead_of_porDone hp _

theorem readUnmapped_of_porDone {s : State} (hp : s.host.porDone = true) :
    readUnmapped s = .next (s.answer (.word 0#32 true)) := doneRead_of_porDone hp _

theorem writeMapped_of_porDone {s : State} (hp : s.host.porDone = true) (u : Video) :
    writeMapped s u = .next (registerWritten s u) := doneVideo_of_porDone hp _ _

section Reads

variable {s : State} (hp : s.host.porDone = true)
include hp

theorem exec_viRd32Ctrl : exec .viRd32Ctrl s = .next (wordReturned s s.vi.ctrl) :=
  readMapped_of_porDone hp _

theorem exec_viRd32Origin : exec .viRd32Origin s = .next (wordReturned s (s.vi.origin.setWidth 32)) :=
  readMapped_of_porDone hp _

theorem exec_viRd32Width : exec .viRd32Width s = .next (wordReturned s (s.vi.viWidth.setWidth 32)) :=
  readMapped_of_porDone hp _

theorem exec_viRd32VIntr : exec .viRd32VIntr s = .next (wordReturned s (s.vi.vIntr.setWidth 32)) :=
  readMapped_of_porDone hp _

theorem exec_viRd32HVideo :
    exec .viRd32HVideo s = .next (wordReturned s (extentWord s.vi.hStart s.vi.hEnd)) :=
  readMapped_of_porDone hp _

theorem exec_viRd32VVideo :
    exec .viRd32VVideo s = .next (wordReturned s (extentWord s.vi.vStart s.vi.vEnd)) :=
  readMapped_of_porDone hp _

theorem exec_viRd32XScale : exec .viRd32XScale s = .next (wordReturned s (s.vi.xScale.setWidth 32)) :=
  readMapped_of_porDone hp _

theorem exec_viRd32YScale : exec .viRd32YScale s = .next (wordReturned s (s.vi.yScale.setWidth 32)) :=
  readMapped_of_porDone hp _

theorem exec_viRd32Unmapped (a : Word) :
    exec (.viRd32Unmapped a) s = .next (s.answer (.word 0#32 true)) :=
  readUnmapped_of_porDone hp

end Reads

section Writes

variable {s : State} (hp : s.host.porDone = true) (v : Word)
include hp

theorem exec_viWr32Ctrl :
    exec (.viWr32Ctrl v) s = .next (registerWritten s { s.vi with ctrl := ctrlStored v }) :=
  writeMapped_of_porDone hp _

theorem exec_viWr32Width :
    exec (.viWr32Width v) s = .next (registerWritten s { s.vi with viWidth := widthStored v }) :=
  writeMapped_of_porDone hp _

theorem exec_viWr32VIntr :
    exec (.viWr32VIntr v) s = .next (registerWritten s { s.vi with vIntr := vintrStored v }) :=
  writeMapped_of_porDone hp _

theorem exec_viWr32VCurrent :
    exec (.viWr32VCurrent v) s = .next (registerWritten s (clearVertical s.vi)) :=
  writeMapped_of_porDone hp _

theorem exec_viWr32HVideo :
    exec (.viWr32HVideo v) s =
      .next (registerWritten s { s.vi with hStart := extentStart v, hEnd := extentEnd v }) :=
  writeMapped_of_porDone hp _

theorem exec_viWr32VVideo :
    exec (.viWr32VVideo v) s =
      .next (registerWritten s { s.vi with vStart := extentStart v, vEnd := extentEnd v }) :=
  writeMapped_of_porDone hp _

theorem exec_viWr32XScale :
    exec (.viWr32XScale v) s = .next (registerWritten s { s.vi with xScale := scaleStored v }) :=
  writeMapped_of_porDone hp _

theorem exec_viWr32YScale :
    exec (.viWr32YScale v) s = .next (registerWritten s { s.vi with yScale := scaleStored v }) :=
  writeMapped_of_porDone hp _

theorem exec_viWr32Unmapped (a : Word) :
    exec (.viWr32Unmapped a v) s = .next (s.answer (.diag true)) :=
  doneRead_of_porDone hp _

end Writes

/-! ### The bits a write keeps -/

/-- Storing under a mask that fits the field drops nothing but the masked bits. -/
theorem toNat_masked_setWidth {n : Nat} {m : Word} (hm : m.toNat < 2 ^ n) (v : Word) :
    ((v &&& m).setWidth n).toNat = (v &&& m).toNat := by
  have hle : (v &&& m).toNat ≤ m.toNat := Nat.and_le_right
  rw [BitVec.toNat_setWidth, Nat.mod_eq_of_lt (hle.trans_lt hm)]

theorem toNat_widthStored (v : Word) : (widthStored v).toNat = (v &&& Params.widthMask).toNat :=
  toNat_masked_setWidth (by decide) v

theorem toNat_vintrStored (v : Word) : (vintrStored v).toNat = (v &&& Params.vintrMask).toNat :=
  toNat_masked_setWidth (by decide) v

theorem toNat_scaleStored (v : Word) : (scaleStored v).toNat = (v &&& Params.scaleMask).toNat :=
  toNat_masked_setWidth (by decide) v

/-- `P_EXTENT_MASK` is ten ones, so the ten bits of an extent field pass it unchanged. -/
theorem setWidth_and_extentMask (v : Word) : (v &&& Params.extentMask).setWidth 10 = v.setWidth 10 := by
  have hones : Params.extentMask.setWidth 10 = BitVec.allOnes 10 := by decide
  rw [BitVec.setWidth_and, hones, BitVec.and_allOnes]

theorem extentStart_eq_extractLsb' (v : Word) : extentStart v = v.extractLsb' 16 10 :=
  (setWidth_and_extentMask (v >>> 16)).trans BitVec.setWidth_ushiftRight_eq_extractLsb

theorem extentEnd_eq_extractLsb' (v : Word) : extentEnd v = v.extractLsb' 0 10 :=
  (setWidth_and_extentMask v).trans (BitVec.setWidth_eq_extractLsb' (by decide))

/-! ### The pending vertical interrupt -/

theorem clearVertical_of_clear {u : Video} (h : u.viIrqPending = false) : clearVertical u = u := by
  rw [clearVertical, ← h]

/-! ### The register map -/

/-- A mapped address is one of the fourteen words from `P_VI_BASE` (R112). -/
theorem exists_offset_of_viMapped {a : Word} (h : viMapped a = true) :
    ∃ k, k < 14 ∧ a = Params.viBase + BitVec.ofNat 32 (4 * k) := by
  rcases viMapped_cases h with
    rfl | rfl | rfl | rfl | rfl | rfl | rfl | rfl | rfl | rfl | rfl | rfl | rfl | rfl <;>
    decide

theorem viMapped_eq_false {a : Word}
    (h : ∀ k : Nat, k < 14 → a ≠ Params.viBase + BitVec.ofNat 32 (4 * k)) : viMapped a = false := by
  cases hm : viMapped a with
  | false => rfl
  | true =>
    obtain ⟨k, hk, ha⟩ := exists_offset_of_viMapped hm
    exact absurd ha (h k hk)

/-! ### The obligations -/

/-- Settles O36: every read is an answer alone (R77), of the field as it is stored. -/
theorem videoRegisterReads : Obligations.VideoRegisterReads := fun _ hp =>
  ⟨exec_viRd32Ctrl hp, exec_viRd32Origin hp, exec_viRd32Width hp, exec_viRd32VIntr hp,
    exec_viRd32HVideo hp, exec_viRd32VVideo hp, exec_viRd32XScale hp, exec_viRd32YScale hp⟩

/-- Settles O37: an address off the fourteen words is not mapped, so it falls through both register
selections to the unmapped access. -/
theorem unmappedVideoAddresses : Obligations.UnmappedVideoAddresses := by
  intro s a v hp ha
  have hm : viMapped a = false := viMapped_eq_false ha
  exact ⟨viRead_unmapped hm, viWrite_unmapped hm v, exec_viRd32Unmapped hp a,
    exec_viWr32Unmapped hp v a⟩

/-- Settles O40: each write is one field update; a masked field keeps its number, and an extent is the two
bit ranges of the word. -/
theorem videoRegisterWrites : Obligations.VideoRegisterWrites := by
  intro s v hp
  rw [← extentStart_eq_extractLsb', ← extentEnd_eq_extractLsb']
  exact ⟨exec_viWr32Ctrl hp v, ⟨_, exec_viWr32Width hp v, toNat_widthStored v⟩,
    ⟨_, exec_viWr32VIntr hp v, toNat_vintrStored v⟩, exec_viWr32HVideo hp v, exec_viWr32VVideo hp v,
    ⟨_, exec_viWr32XScale hp v, toNat_scaleStored v⟩, ⟨_, exec_viWr32YScale hp v, toNat_scaleStored v⟩⟩

/-- Settles O43: the write is `clearVertical`, which leaves a clear condition's interface as it is. -/
theorem currentLineWriteClears : Obligations.CurrentLineWriteClears := by
  intro s v hp
  refine ⟨exec_viWr32VCurrent hp v, fun hclear => ?_⟩
  rw [exec_viWr32VCurrent hp v, clearVertical_of_clear hclear]
  rfl

end Sys2Proof.Proofs
end

section
/-! SUPPORT. The family of spec/42_video_redraw.md: the whole of `VI.REDRAW` said once, what it leaves in
the blacked-out flag, and that no operation but `VI.REDRAW` and `POR` moves the flag. -/

namespace Sys2Proof.Proofs

open Sys2Proof.Machine

/-! ### What a redraw does -/

/-- A redraw that completes comes after `POR` (R273), has passed the extents check (R223), and its next
state is the interface `redrawn` computes with the result `true`. -/
theorem exec_viRedraw_next {s t : State} (h : exec .viRedraw s = .next t) :
    s.host.porDone = true ∧ extentsReversed s.vi = false ∧
      ∃ u, redrawn s.env s.vi = some u ∧ t = (s.withVideo u).answer (.redraw true) := by
  obtain ⟨hp, h⟩ := afterPor_next h
  cases hx : extentsReversed s.vi with
  | true => rw [hx] at h; cases h
  | false =>
    rw [hx] at h
    cases hr : redrawn s.env s.vi with
    | none => rw [hr] at h; cases h
    | some u => rw [hr] at h; exact ⟨hp, rfl, u, rfl, (doneVideo_next h).2⟩

/-- A redraw computes the dimensions and touches the buffer with its size and the flag only (R211). -/
theorem redrawn_frame {e : Environment} {v u : Video} (h : redrawn e v = some u) :
    u = { computeDimensions v with
      fb := u.fb, fbW := u.fbW, fbH := u.fbH, blackedOut := u.blackedOut } := by
  rcases redrawn_cases h with ⟨-, rfl⟩ | ⟨-, hr⟩
  · rw [(blackOut_frame _).1]
  · rw [(rendered_frame hr).1]

/-- Each branch of a redraw leaves in the flag the condition it was chosen by (R219). -/
theorem redrawn_blackedOut {e : Environment} {v u : Video} (h : redrawn e v = some u) :
    u.blackedOut = blackoutCondition (computeDimensions v) := by
  rcases redrawn_cases h with ⟨hc, rfl⟩ | ⟨hc, hr⟩
  · rw [hc, blackOut_blackedOut]
  · rw [hc, (rendered_frame hr).1]

/-- The blacked-out condition (R212), as a proposition. -/
theorem blackoutCondition_iff (v : Video) :
    blackoutCondition v = true ↔
      (v.outWidth = 0 ∨ v.outHeight = 0 ∨ v.srcBound = false ∨ pixelFormat v.ctrl = .disabled) := by
  simp [blackoutCondition, or_assoc]

/-! ### What the other operations leave in the video interface -/

theorem doneTimer_next_vi {s t : State} {u : Timer} {r : OpResult} (h : doneTimer s u r = .next t) :
    t.vi = s.vi := by
  rw [(doneTimer_next h).2, answer_vi, withTimer_vi]

theorem doneRead_next_vi {s t : State} {r : OpResult} (h : doneRead s r = .next t) : t.vi = s.vi := by
  rw [(doneRead_next h).2, answer_vi]

theorem doneVideo_next_vi {s t : State} {u : Video} {r : OpResult} (h : doneVideo s u r = .next t) :
    t.vi = u := by
  rw [(doneVideo_next h).2, answer_vi, withVideo_vi]

/-- By the kind of the operation: a timer operation, a read and an ignored write leave the whole interface,
a register write and `VI.VINT` update fields other than the flag, a foreign bus access does not complete. -/
theorem exec_keeps_blackedOut {i : Instr} {s t : State} (h : exec i s = .next t) (hr : i ≠ .viRedraw)
    (hp : i ≠ .por) : t.vi.blackedOut = s.vi.blackedOut := by
  cases i with
  | por => exact absurd rfl hp
  | viRedraw => exact absurd rfl hr
  | busRd8Other | busWr8Other => cases (afterPor_next h).2
  | tReset | tUpdate | busWr8Div | busWr8Tima | busWr8Tma | busWr8Tac | busWr8If =>
    exact congrArg Video.blackedOut (doneTimer_next_vi h)
  | busRd8Div | busRd8Tima | busRd8Tma | busRd8Tac | busRd8If
  | viRd32Ctrl | viRd32Origin | viRd32Width | viRd32VIntr | viRd32VCurrent | viRd32Burst | viRd32VSync
  | viRd32HSync | viRd32HSyncLeap | viRd32HVideo | viRd32VVideo | viRd32VBurst | viRd32XScale
  | viRd32YScale | viRd32Unmapped
  | viWr32Burst | viWr32VSync | viWr32HSync | viWr32HSyncLeap | viWr32VBurst | viWr32Unmapped =>
    exact (congrArg Video.blackedOut (doneRead_next_vi h)).trans rfl
  | viWr32Ctrl | viWr32Origin | viWr32Width | viWr32VIntr | viWr32VCurrent | viWr32HVideo | viWr32VVideo
  | viWr32XScale | viWr32YScale | viVint =>
    exact (congrArg Video.blackedOut (doneVideo_next_vi h)).trans rfl

/-! ### The obligation -/

/-- Settles O49: the flag is the condition the redraw branched on, whose dimensions, source and format the
rest of the call leaves in place; every other operation but `POR` keeps the flag. -/
theorem blackedOutIsTheCondition : Obligations.BlackedOutIsTheCondition := by
  refine ⟨fun s t h => ?_, fun i s t h hr hp => exec_keeps_blackedOut h hr hp⟩
  obtain ⟨-, -, u, hu, rfl⟩ := exec_viRedraw_next h
  rw [answer_vi, withVideo_vi, redrawn_blackedOut hu, blackoutCondition_iff, redrawn_frame hu]
  rfl

end Sys2Proof.Proofs
end

section
/-! SUPPORT. The family of spec/30_encoding.md: the decoder and the encoder undo each other, and every
descriptor that is no operation is rejected by name (R100 to R104, R110, R112). -/

namespace Sys2Proof.Proofs

open Sys2Proof.Machine

/-! ### Decoding what was encoded -/

/-- Settles O1: the plain operations evaluate, an access decodes to what its address selects, and a
well-formed catch-all access has an address that selects nothing else (R104). -/
theorem decodeOfEncode : Obligations.DecodeOfEncode := by
  intro i hw
  cases i with
  | por | tReset | viRedraw | viVint => decide
  | tUpdate c f => exact decode_encodeUpdate c f
  | busRd8Div | busRd8Tima | busRd8Tma | busRd8Tac | busRd8If => exact decode_encodeBusRead _
  | busWr8Div | busWr8Tima | busWr8Tma | busWr8Tac | busWr8If => exact decode_encodeBusWrite _ _
  | viRd32Ctrl | viRd32Origin | viRd32Width | viRd32VIntr | viRd32VCurrent | viRd32Burst | viRd32VSync
  | viRd32HSync | viRd32HSyncLeap | viRd32HVideo | viRd32VVideo | viRd32VBurst | viRd32XScale
  | viRd32YScale => exact decode_encodeViRead _
  | viWr32Ctrl | viWr32Origin | viWr32Width | viWr32VIntr | viWr32VCurrent | viWr32Burst | viWr32VSync
  | viWr32HSync | viWr32HSyncLeap | viWr32HVideo | viWr32VVideo | viWr32VBurst | viWr32XScale
  | viWr32YScale => exact decode_encodeViWrite _ _
  | busRd8Other a =>
    have ha : busOwned a = false := by simpa [wellFormed] using hw
    rw [encode, decode_encodeBusRead, busRead_other ha]
  | busWr8Other a v =>
    have ha : busOwned a = false := by simpa [wellFormed] using hw
    rw [encode, decode_encodeBusWrite, busWrite_other ha]
  | viRd32Unmapped a =>
    have ha : viMapped a = false := by simpa [wellFormed] using hw
    rw [encode, decode_encodeViRead, viRead_unmapped ha]
  | viWr32Unmapped a v =>
    have ha : viMapped a = false := by simpa [wellFormed] using hw
    rw [encode, decode_encodeViWrite, viWrite_unmapped ha]

/-! ### Encoding what was decoded -/

/-- Everything `decode` can answer but a rejection (R101): by operation code, the must-be-zero fields are
zero and the operation is the one of that code. -/
theorem decode_ok_cases {od : Descriptor} {i : Instr} (h : decode od = .ok i) :
    (∃ j ∈ [(0x00#8, Instr.por), (0x01#8, .tReset), (0x22#8, .viRedraw), (0x23#8, .viVint)],
      opField od = j.1 ∧ (auxField od = 0#8 ∧ addrField od = 0#32 ∧ dataField od = 0#32) ∧ j.2 = i) ∨
    (opField od = 0x02#8 ∧ (addrField od = 0#32 ∧ (dataField od).extractLsb' 8 24 = 0#24) ∧
      .tUpdate ((auxField od).setWidth Params.cyclesW) ((dataField od).extractLsb' 0 8) = i) ∨
    (opField od = 0x10#8 ∧
      (auxField od = 0#8 ∧ aboveBusAddr (addrField od) = 0 ∧ dataField od = 0#32) ∧
      busRead (busAddrOf (addrField od)) = i) ∨
    (opField od = 0x11#8 ∧
      (auxField od = 0#8 ∧ aboveBusAddr (addrField od) = 0 ∧ (dataField od).extractLsb' 8 24 = 0#24) ∧
      busWrite (busAddrOf (addrField od)) ((dataField od).extractLsb' 0 8) = i) ∨
    (opField od = 0x20#8 ∧ (auxField od = 0#8 ∧ dataField od = 0#32) ∧ viRead (addrField od) = i) ∨
    (opField od = 0x21#8 ∧ auxField od = 0#8 ∧ viWrite (addrField od) (dataField od) = i) := by
  simp only [decode] at h
  split_ifs at h with h00 h01 h02 h10 h11 h20 h21 h22 h23
  · exact .inl ⟨(0x00#8, .por), by simp, h00, whenZero_ok h⟩
  · exact .inl ⟨(0x01#8, .tReset), by simp, h01, whenZero_ok h⟩
  · exact .inr (.inl ⟨h02, whenZero_ok h⟩)
  · exact .inr (.inr (.inl ⟨h10, whenZero_ok h⟩))
  · exact .inr (.inr (.inr (.inl ⟨h11, whenZero_ok h⟩)))
  · exact .inr (.inr (.inr (.inr (.inl ⟨h20, whenZero_ok h⟩))))
  · exact .inr (.inr (.inr (.inr (.inr ⟨h21, whenZero_ok h⟩))))
  · exact .inl ⟨(0x22#8, .viRedraw), by simp, h22, whenZero_ok h⟩
  · exact .inl ⟨(0x23#8, .viVint), by simp, h23, whenZero_ok h⟩

/-- Settles O2: a descriptor is the pack of its four fields, and the encoder writes each field back: the
zeros the decoder demanded, the operands it read. -/
theorem encodeOfDecode : Obligations.EncodeOfDecode := by
  intro od i h
  rcases decode_ok_cases h with ⟨j, hj, hop, ⟨haux, haddr, hdata⟩, rfl⟩ | ⟨hop, ⟨haddr, hdata⟩, rfl⟩ |
    ⟨hop, ⟨haux, haddr, hdata⟩, rfl⟩ | ⟨hop, ⟨haux, haddr, hdata⟩, rfl⟩ |
    ⟨hop, ⟨haux, hdata⟩, rfl⟩ | ⟨hop, haux, rfl⟩
  · rw [← pack_fields od, hop, haux, haddr, hdata]
    simp only [List.mem_cons, List.not_mem_nil, or_false] at hj
    rcases hj with rfl | rfl | rfl | rfl <;> exact ⟨rfl, rfl⟩
  · refine ⟨rfl, .trans ?_ (pack_fields od)⟩
    rw [encode, setWidth_cycles, setWidth_low8 hdata, hop, haddr]
  · obtain ⟨hwf, he⟩ := busRead_encode (busAddrOf (addrField od))
    refine ⟨hwf, .trans ?_ (pack_fields od)⟩
    rw [he, encodeBusRead, setWidth_busAddrOf haddr, hop, haux, hdata]
  · obtain ⟨hwf, he⟩ :=
      busWrite_encode (busAddrOf (addrField od)) ((dataField od).extractLsb' 0 8)
    refine ⟨hwf, .trans ?_ (pack_fields od)⟩
    rw [he, encodeBusWrite, setWidth_busAddrOf haddr, setWidth_low8 hdata, hop, haux]
  · obtain ⟨hwf, he⟩ := viRead_encode (addrField od)
    refine ⟨hwf, .trans ?_ (pack_fields od)⟩
    rw [he, encodeViRead, hop, haux, hdata]
  · obtain ⟨hwf, he⟩ := viWrite_encode (addrField od) (dataField od)
    refine ⟨hwf, .trans ?_ (pack_fields od)⟩
    rw [he, encodeViWrite, hop, haux]

/-! ### Rejection -/

/-- Where the must-be-zero fields are not all zero the decoder says reserved (R103 (b)). -/
theorem whenZero_reserved {p : Prop} [Decidable p] (h : ¬ p) (i : Instr) :
    whenZero p i = .error .reserved := if_neg h

/-- A range of a descriptor that lies inside one of its fields is that range of the field (R100). -/
theorem extractLsb'_dataField (od : Descriptor) :
    (dataField od).extractLsb' 8 24 = od.extractLsb' 8 24 := by
  refine BitVec.eq_of_getLsbD_eq fun i hi => ?_
  simp [dataField, hi]

/-- The 72 bits below the operation code are zero where the three operand fields are (R100). -/
theorem belowOp_eq_zero {od : Descriptor} (haux : auxField od = 0#8) (haddr : addrField od = 0#32)
    (hdata : dataField od = 0#32) : od.extractLsb' 0 72 = 0 := by
  rw [← pack_fields od, haux, haddr, hdata]
  refine BitVec.eq_of_getLsbD_eq fun i hi => ?_
  simp [getLsbD_pack, hi]

/-- Bits 71 to 48 of a bus operation are zero where `aux` and the rest of `addr` are (R100, R102). -/
theorem aboveBusAddr_eq_zero {od : Descriptor} (haux : auxField od = 0#8)
    (haddr : aboveBusAddr (addrField od) = 0) : od.extractLsb' 48 24 = 0 := by
  have hlow : od.extractLsb' 48 16 = 0#16 := (aboveBusAddr_addrField od).symm.trans haddr
  have hhigh : od.extractLsb' 64 8 = 0#8 := haux
  refine BitVec.eq_of_getLsbD_eq fun i hi => ?_
  by_cases h : i < 16
  · have hb := congrArg (·.getLsbD i) hlow
    simpa [h, hi] using hb
  · have hb := congrArg (·.getLsbD (i - 16)) hhigh
    have h8 : i - 16 < 8 := by omega
    have hi' : 64 + (i - 16) = 48 + i := by omega
    simpa [h8, hi', hi] using hb

/-- Settles O4: the operation code selects the layout, and a non-zero bit range of the statement makes one
of that layout's must-be-zero fields non-zero. -/
theorem illegalAndReservedDescriptors : Obligations.IllegalAndReservedDescriptors := by
  intro od
  rw [← extractLsb'_dataField]
  change (opField od ∉ _ → _ = Except.error (DecodeError.illegalOp (opField od))) ∧ (opField od ∈ _ → _) ∧
    (opField od = _ → (addrField od ≠ 0 ∨ _) → _) ∧ (opField od = _ → (_ ∨ dataField od ≠ 0) → _) ∧
    (opField od = _ → _) ∧ (opField od = _ → (auxField od ≠ 0 ∨ dataField od ≠ 0) → _) ∧
    (opField od = _ → auxField od ≠ 0 → _)
  refine ⟨fun hop => ?_, fun hop hz => ?_, fun hop hz => ?_, fun hop hz => ?_, fun hop hz => ?_,
    fun hop hz => ?_, fun hop hz => ?_⟩
  · simp only [List.mem_cons, List.not_mem_nil, or_false, not_or] at hop
    simp only [decode, hop, if_false]
  · have hp : ¬ (auxField od = 0#8 ∧ addrField od = 0#32 ∧ dataField od = 0#32) :=
      fun ⟨haux, haddr, hdata⟩ => hz (belowOp_eq_zero haux haddr hdata)
    simp only [List.mem_cons, List.not_mem_nil, or_false] at hop
    rcases hop with hop | hop | hop | hop <;>
      simp [decode, hop, whenZero_reserved hp]
  · have hp : ¬ (addrField od = 0#32 ∧ (dataField od).extractLsb' 8 24 = 0#24) :=
      fun ⟨haddr, hdata⟩ => hz.elim (· haddr) (· hdata)
    simp only [decode, hop, BitVec.reduceEq, if_true, if_false]
    exact whenZero_reserved hp _
  · have hp : ¬ (auxField od = 0#8 ∧ aboveBusAddr (addrField od) = 0 ∧ dataField od = 0#32) :=
      fun ⟨haux, haddr, hdata⟩ => hz.elim (· (aboveBusAddr_eq_zero haux haddr)) (· hdata)
    simp only [decode, hop, BitVec.reduceEq, if_true, if_false]
    exact whenZero_reserved hp _
  · have hp : ¬ (auxField od = 0#8 ∧ aboveBusAddr (addrField od) = 0 ∧
        (dataField od).extractLsb' 8 24 = 0#24) :=
      fun ⟨haux, haddr, hdata⟩ => hz.elim (· (aboveBusAddr_eq_zero haux haddr)) (· hdata)
    simp only [decode, hop, BitVec.reduceEq, if_true, if_false]
    exact whenZero_reserved hp _
  · have hp : ¬ (auxField od = 0#8 ∧ dataField od = 0#32) :=
      fun ⟨haux, hdata⟩ => hz.elim (· haux) (· hdata)
    simp only [decode, hop, BitVec.reduceEq, if_true, if_false]
    exact whenZero_reserved hp _
  · have hp : ¬ auxField od = 0#8 := hz
    simp only [decode, hop, BitVec.reduceEq, if_true, if_false]
    exact whenZero_reserved hp _

/-! ### Written-out descriptors and addresses -/

/-- Settles O3: eleven fixed words evaluate to their operations and two to their rejections. -/
theorem specWordsDecode : Obligations.SpecWordsDecode := by
  unfold Obligations.SpecWordsDecode
  decide

/-- Settles O5: the four access descriptors decode to the register selection of their address, which
evaluates on the fourteen addresses. -/
theorem addressSelectsTheRegister : Obligations.AddressSelectsTheRegister :=
  ⟨fun a v => ⟨decode_encodeBusRead a, decode_encodeBusWrite a v⟩,
    fun a v => ⟨decode_encodeViRead a, decode_encodeViWrite a v⟩, by decide, fun _ => rfl⟩

end Sys2Proof.Proofs
end

section
/-! SUPPORT. The operations side by side (spec/00_scope.md R9, spec/60_exceptions.md R256,
spec/70_reset_and_hazards.md R270 to R273): what every operation of each device answers, said once, and what
follows for refusals, faults and frames. -/

namespace Sys2Proof.Proofs

open Sys2Proof.Machine Sys2Proof.Claims

/-! ### What each operation answers -/

/-- The timer an operation of the timer or of the bus cells leaves, where it completes (R130, R131, R152 to
R161). -/
def timerAfter (i : Instr) (t : Timer) : Timer :=
  match i with
  | .tReset => timerReset t
  | .tUpdate c f => (timerUpdate tacGlitch Params.ifRaiseNested c f t).1
  | .busWr8Div _ => { t with divReset := true }
  | .busWr8Tima v => { t with tima := v }
  | .busWr8Tma v => { t with tma := v }
  | .busWr8Tac v => { t with tac := tacStored v, tacChanged := true }
  | .busWr8If v => { t with ifReg := ifStored v }
  | _ => t

/-- The result of an operation of the timer or of the bus cells, where it completes. -/
def timerResult (i : Instr) (t : Timer) : OpResult :=
  match i with
  | .tUpdate c f => .irq (timerUpdate tacGlitch Params.ifRaiseNested c f t).2
  | .busRd8Div => .byte t.div
  | .busRd8Tima => .byte t.tima
  | .busRd8Tma => .byte t.tma
  | .busRd8Tac => .byte t.tac
  | .busRd8If => .byte t.ifReg
  | _ => .none

/-- The video interface an operation other than `VI.REDRAW` leaves (R172 to R197); a write of ORIGIN also
sees whether DRAM is attached. -/
def videoAfter (attached : Bool) (i : Instr) (v : Video) : Video :=
  match i with
  | .viWr32Ctrl w => { v with ctrl := ctrlStored w }
  | .viWr32Origin w =>
    { v with
      origin := originStored w
      srcBound := if attached then true else v.srcBound
      frameCount := v.frameCount + 1 }
  | .viWr32Width w => { v with viWidth := widthStored w }
  | .viWr32VIntr w => { v with vIntr := vintrStored w }
  | .viWr32VCurrent _ => clearVertical v
  | .viWr32HVideo w => { v with hStart := extentStart w, hEnd := extentEnd w }
  | .viWr32VVideo w => { v with vStart := extentStart w, vEnd := extentEnd w }
  | .viWr32XScale w => { v with xScale := scaleStored w }
  | .viWr32YScale w => { v with yScale := scaleStored w }
  | .viVint => raiseVertical v
  | _ => v

/-- The draws used up after an operation: a read of V_CURRENT uses one (log entry 6). -/
def drawsAfter (i : Instr) (h : HostSide) : Nat :=
  match i with
  | .viRd32VCurrent => h.draws + 1
  | _ => h.draws

/-- An operation of the timer or of the bus cells is refused in every state, as a foreign bus access is, or
it is the timer's own function of the timer (R162, R256). -/
theorem exec_timerOp {i : Instr} (hi : isTimerOp i = true) :
    (∃ a, ∀ s, exec i s = afterPor s (.refused (.busAddressNotOwned a))) ∨
      ∀ s, exec i s = doneTimer s (timerAfter i s.tmr) (timerResult i s.tmr) := by
  cases i with
  | busRd8Other a => exact .inl ⟨a, fun _ => rfl⟩
  | busWr8Other a v => exact .inl ⟨a, fun _ => rfl⟩
  | tReset | tUpdate | busRd8Div | busRd8Tima | busRd8Tma | busRd8Tac | busRd8If | busWr8Div | busWr8Tima
  | busWr8Tma | busWr8Tac | busWr8If => exact .inr fun _ => rfl
  | _ => cases hi

/-- An operation of the video interface other than `VI.REDRAW` completes after `POR` (R171, R273), with the
video interface's own function of the video interface. -/
theorem exec_videoOp {i : Instr} (hi : isVideoOp i = true) (hr : i ≠ .viRedraw) (s : State) :
    ∃ r, exec i s = afterPor s (.next { s with
      vi := videoAfter s.env.dramAttached i s.vi
      host := { s.host with result := r, draws := drawsAfter i s.host } }) := by
  cases i with
  | viRedraw => exact absurd rfl hr
  | por | tReset | tUpdate | busRd8Div | busRd8Tima | busRd8Tma | busRd8Tac | busRd8If | busRd8Other
  | busWr8Div | busWr8Tima | busWr8Tma | busWr8Tac | busWr8If | busWr8Other => cases hi
  | _ => exact ⟨_, rfl⟩

/-- Every operation but `POR` is the timer's and the bus's or the video interface's. -/
theorem isTimerOp_or_isVideoOp {i : Instr} (hi : i ≠ .por) : isTimerOp i = true ∨ isVideoOp i = true := by
  cases h : isTimerOp i with
  | true => exact .inl rfl
  | false => exact .inr (by simp [isVideoOp, h, hi])

/-- A completed operation of the timer or of the bus cells (R256). -/
theorem exec_timerOp_next {i : Instr} {s t : State} (hi : isTimerOp i = true) (h : exec i s = .next t) :
    t = (s.withTimer (timerAfter i s.tmr)).answer (timerResult i s.tmr) := by
  rcases exec_timerOp hi with ⟨a, hex⟩ | hex
  · rw [hex s] at h
    cases (afterPor_next h).2
  · rw [hex s] at h
    exact (doneTimer_next h).2

/-- A completed operation of the video interface other than `VI.REDRAW` (R171, R256). -/
theorem exec_videoOp_next {i : Instr} {s t : State} (hi : isVideoOp i = true) (hr : i ≠ .viRedraw)
    (h : exec i s = .next t) :
    ∃ r, t = { s with
      vi := videoAfter s.env.dramAttached i s.vi
      host := { s.host with result := r, draws := drawsAfter i s.host } } := by
  obtain ⟨r, hex⟩ := exec_videoOp hi hr s
  rw [hex] at h
  injection (afterPor_next h).2 with ht
  exact ⟨r, ht.symm⟩

/-- A completed operation of the video interface, `VI.REDRAW` included, changes the video interface, the
result and the draws at most. -/
theorem exec_videoOp_frame {i : Instr} {s t : State} (hi : isVideoOp i = true) (h : exec i s = .next t) :
    ∃ u r d, t = { s with vi := u, host := { s.host with result := r, draws := d } } := by
  by_cases hr : i = .viRedraw
  · subst hr
    obtain ⟨-, -, u, -, rfl⟩ := exec_viRedraw_next h
    exact ⟨u, .redraw true, s.host.draws, rfl⟩
  · obtain ⟨r, rfl⟩ := exec_videoOp_next hi hr h
    exact ⟨_, _, _, rfl⟩

/-! ### Refusals and faults -/

/-- `VI.REDRAW` after `POR` is refused or done; before it, it is refused (R223, R273). -/
theorem exec_viRedraw (s : State) :
    exec .viRedraw s = afterPor s
      (if extentsReversed s.vi then .refused .extentsReversed
       else
         match redrawn s.env s.vi with
         | some v => doneVideo s v (.redraw true)
         | none => .refused .sourceOutsideDram) := rfl

/-- Every operation but `POR` starts with the test of R273 (1). -/
theorem exec_eq_afterPor {i : Instr} (hi : i ≠ .por) (s : State) : ∃ k, exec i s = afterPor s k := by
  rcases isTimerOp_or_isVideoOp hi with ht | hv
  · rcases exec_timerOp ht with ⟨a, hex⟩ | hex
    · exact ⟨_, hex s⟩
    · exact ⟨_, hex s⟩
  · by_cases hr : i = .viRedraw
    · subst hr
      exact ⟨_, exec_viRedraw s⟩
    · obtain ⟨r, hex⟩ := exec_videoOp hv hr s
      exact ⟨_, hex⟩

/-- Settles O13: the test of R273 (1) comes first in every operation but `POR`. -/
theorem nothingBeforePor : Obligations.NothingBeforePor := by
  intro i s hp hi
  obtain ⟨k, hk⟩ := exec_eq_afterPor hi s
  rw [hk, afterPor_of_not_porDone hp]

/-- A fault behind the test of R273 (1) is a fault of what follows the test. -/
theorem afterPor_fault {s : State} {k : Answer} {f : Fault} (h : afterPor s k = .fault f) :
    k = .fault f := by
  cases hp : s.host.porDone with
  | true => rwa [afterPor_of_porDone hp] at h
  | false => rw [afterPor_of_not_porDone hp] at h; cases h

theorem exec_ne_fault (i : Instr) (s : State) (f : Fault) : exec i s ≠ .fault f := by
  intro h
  by_cases hi : i = .por
  · subst hi
    cases h
  rcases isTimerOp_or_isVideoOp hi with ht | hv
  · rcases exec_timerOp ht with ⟨a, hex⟩ | hex <;>
    · rw [hex s] at h
      cases afterPor_fault h
  by_cases hr : i = .viRedraw
  · subst hr
    rw [exec_viRedraw] at h
    have hk := afterPor_fault h
    split at hk
    · cases hk
    · split at hk
      · cases afterPor_fault hk
      · cases hk
  · obtain ⟨r, hex⟩ := exec_videoOp hv hr s
    rw [hex] at h
    cases afterPor_fault h

/-- Settles O14: operations complete or are refused; of a step's events only the store of the environment
has a fault, outside DRAM. -/
theorem noOperationFaults : Obligations.NoOperationFaults := by
  refine ⟨exec_ne_fault, fun s f h => ?_⟩
  simp only [step, takeTurn] at h
  split at h
  · cases h
  · rename_i ev rest hin
    cases ev with
    | issue od =>
      simp only [handleEvent] at h
      split at h
      · exact absurd h (exec_ne_fault _ _ _)
      · cases h
    | dramStore a b =>
      simp only [handleEvent, environmentStore] at h
      split at h
      · cases h
      · injection h with h
        exact ⟨a, b, by rw [hin, List.head?_cons], h.symm⟩

/-! ### Frames -/

theorem exec_por_next {s t : State} (h : exec .por s = .next t) :
    t = { s with
      tmr := timerAfterPor, vi := videoAfterPor
      host := { s.host with porDone := true, result := .none } } := by
  injection h with h
  exact h.symm

/-- Settles O33: by the device of the operation, each next state is written out by its frame lemma. -/
theorem devicesShareNoState : Obligations.DevicesShareNoState := by
  intro i s t h
  by_cases hi : i = .por
  · subst hi
    rw [exec_por_next h]
    exact ⟨(nomatch ·), (nomatch ·), rfl, fun _ => rfl, rfl⟩
  cases ht : isTimerOp i with
  | true =>
    rw [exec_timerOp_next ht h]
    exact ⟨fun _ => rfl, fun hv => by simp [isVideoOp, ht] at hv, rfl, fun _ => rfl, rfl⟩
  | false =>
    have hv : isVideoOp i = true := (isTimerOp_or_isVideoOp hi).resolve_left (by simp [ht])
    obtain ⟨u, r, d, rfl⟩ := exec_videoOp_frame hv h
    exact ⟨(nomatch ·), fun _ => rfl, rfl, fun _ => rfl, rfl⟩

/-- Settles O34: a timer operation that completes is a function of the timer, after `POR` in both states. -/
theorem timerSeesOnlyTheTimer : Obligations.TimerSeesOnlyTheTimer := by
  intro i s u t hi htmr hpor h
  rcases exec_timerOp hi with ⟨a, hex⟩ | hex
  · rw [hex s] at h
    cases (afterPor_next h).2
  · rw [hex s] at h
    obtain ⟨hp, rfl⟩ := doneTimer_next h
    refine ⟨_, (hex u).trans (doneTimer_of_porDone (hpor ▸ hp) _ _), ?_, ?_⟩
    · simp [htmr]
    · simp [htmr]

/-- The register writes and `VI.VINT` leave the frame alone (R62 (e), R171). -/
theorem videoAfter_frame (attached : Bool) (i : Instr) (v : Video) :
    (videoAfter attached i v).fb = v.fb ∧ (videoAfter attached i v).fbW = v.fbW ∧
      (videoAfter attached i v).fbH = v.fbH ∧ (videoAfter attached i v).outWidth = v.outWidth ∧
      (videoAfter attached i v).outHeight = v.outHeight ∧
      (videoAfter attached i v).blackedOut = v.blackedOut := by
  cases i <;> exact ⟨rfl, rfl, rfl, rfl, rfl, rfl⟩

/-- The frame-submission counter moves in a write of ORIGIN only (R174). -/
theorem videoAfter_frameCount (attached : Bool) {i : Instr} (v : Video) (hi : ∀ w, i ≠ .viWr32Origin w) :
    (videoAfter attached i v).frameCount = v.frameCount := by
  cases i with
  | viWr32Origin w => exact absurd rfl (hi w)
  | _ => rfl

/-- Settles O35: timer operations keep the video interface, a redraw its counter, and the register writes
the frame. -/
theorem frameChangesOnlyAtARedraw : Obligations.FrameChangesOnlyAtARedraw := by
  intro i s t h hi
  rcases isTimerOp_or_isVideoOp hi with ht | hv
  · rw [exec_timerOp_next ht h]
    exact ⟨fun _ => ⟨rfl, rfl, rfl, rfl, rfl, rfl⟩, fun _ => rfl⟩
  by_cases hr : i = .viRedraw
  · subst hr
    obtain ⟨-, -, u, hu, rfl⟩ := exec_viRedraw_next h
    refine ⟨fun hne => absurd rfl hne, fun _ => ?_⟩
    rw [answer_vi, withVideo_vi, redrawn_frame hu]
    rfl
  · obtain ⟨r, rfl⟩ := exec_videoOp_next hv hr h
    exact ⟨fun _ => videoAfter_frame _ i s.vi, videoAfter_frameCount _ s.vi⟩

/-! ### POR and T.RESET -/

/-- Settles O9: `POR` is total and writes every field of both devices. -/
theorem porSetsEveryState : Obligations.PorSetsEveryState := fun _ => ⟨_, rfl, rfl, rfl, rfl, rfl⟩

/-- Settles O10: the reset state holds the values `POR` writes. -/
theorem resetIsAfterPor : Obligations.ResetIsAfterPor := rfl

theorem exec_tReset {s : State} (hp : s.host.porDone = true) :
    exec .tReset s = .next ((s.withTimer (timerReset s.tmr)).answer .none) := doneTimer_of_porDone hp _ _

/-- Settles O11: after `POR` the operation is `timerReset`. -/
theorem tResetZeroesTheTimer : Obligations.TResetZeroesTheTimer := fun _ hp => exec_tReset hp

/-- Settles O12: what `POR` writes is what `T.RESET` writes or keeps. -/
theorem tResetAfterPorChangesNothing : Obligations.TResetAfterPorChangesNothing := by
  intro s
  refine ⟨_, rfl, exec_tReset rfl⟩

/-! ### Steps -/

theorem step_of_issue {s : State} {od : Descriptor} {rest : List HostEvent}
    (h : s.host.inbox = .issue od :: rest) :
    step s = handleEvent exec { s with host := { s.host with inbox := rest } } (.issue od) := by
  simp only [step, takeTurn, h, State.taken, List.tail_cons]

theorem step_of_dramStore {s : State} {a : Nat} {b : Byte} {rest : List HostEvent}
    (h : s.host.inbox = .dramStore a b :: rest) :
    step s = environmentStore { s with host := { s.host with inbox := rest } } a b := by
  simp only [step, takeTurn, h, State.taken, List.tail_cons, handleEvent]

/-- Settles O6: the three answers of the decoder, one after the other. -/
theorem stepRunsTheIssuedOperation : Obligations.StepRunsTheIssuedOperation := by
  intro s od rest hin
  rw [step_of_issue hin]
  exact ⟨fun i hd => by simp only [handleEvent, hd],
    fun op hd => by simp only [handleEvent, hd, refusalOf],
    fun hd => by simp only [handleEvent, hd, refusalOf]⟩

/-- A table word that means an operation fits in a descriptor, which decodes to it. -/
theorem decodeTableWord_some {n w : Nat} {i : Instr} (h : decodeTableWord n w = some i) :
    ∃ od, tableWord n w = some od ∧ decode od = .ok i := by
  unfold decodeTableWord at h
  split at h
  · rename_i od hod
    refine ⟨od, hod, ?_⟩
    cases hd : decode od with
    | ok j => rw [hd] at h; injection h with h; rw [h]
    | error e => rw [hd] at h; cases h
  · cases h

/-- Settles O7: the placed word is the event at the head, and taking it gives back the state. -/
theorem placedWordRuns : Obligations.PlacedWordRuns := by
  intro s w i hw
  obtain ⟨od, hod, hd⟩ := decodeTableWord_some hw
  have hplaced : s.withFetchWord 80 w = s.issuedFirst (.issue od) := by
    simp only [State.withFetchWord, issueTableWord, hod]
  rw [hplaced, step_of_issue (issuedFirst_inbox s (.issue od))]
  simp only [handleEvent, hd]
  rfl

/-- Settles O8: an empty inbox leaves the state; a store is a canonical write where its byte of DRAM
exists, and the fault where it does not. -/
theorem stepWithoutAnOperation : Obligations.StepWithoutAnOperation := by
  intro s
  refine ⟨fun hin => by simp only [step, takeTurn, hin], fun a b rest hin hwf => ?_⟩
  rw [step_of_dramStore hin]
  refine ⟨fun hatt hsize => ⟨Memory.write s.env.dram a b, ?_, write_wf hwf a b, fun c => ?_⟩,
    fun habsent => ?_⟩
  · have hr : memReadable s.env a 1 = true := by simp [memReadable, hatt]; omega
    simp only [environmentStore, hr, if_true]
  · by_cases hc : c = a
    · rw [if_pos hc, hc, read_write_same hwf]
    · rw [if_neg hc, read_write_other hc]
  · have hr : memReadable s.env a 1 = false := by
      rcases habsent with hatt | hsize
      · simp [memReadable, hatt]
      · simp [memReadable]; omega
    simp only [environmentStore, hr, Bool.false_eq_true, if_false]

end Sys2Proof.Proofs
end

section
/-! SUPPORT. The whole of `T.UPDATE` (spec/40_timer.md R131, R141 to R149, R163): the counting loop in closed
form, each step's TIMA as a sum, the eight steps together, and the statements that are cases of it. -/

namespace Sys2Proof.Proofs

open Sys2Proof.Machine Sys2Proof.Claims

/-! ### The counting loop -/

theorem toNat_succ_of_ne_ff {x : Byte} (hx : x ≠ 0xFF#8) : (x + 1).toNat = x.toNat + 1 := by
  have hne : x.toNat ≠ 255 := fun h => hx (BitVec.eq_of_toNat_eq h)
  have hlt : x.toNat < 256 := x.isLt
  have hone : (1 : Byte).toNat = 1 := rfl
  rw [BitVec.toNat_add, hone]
  omega

/-- One round of the loop moves one divisor from the counter to TIMA, so a closed form of the rest is the
closed form of the whole (R147). The fuel suffices where it covers the rounds up to the wrap. -/
theorem countLoop_eq {div : Nat} (hdiv : 0 < div) (n counter : Nat) (tima : Byte)
    (hn : 256 ≤ tima.toNat + n) :
    countLoop n div counter tima =
      if tima.toNat + counter / div < 256
      then ⟨counter % div, tima + BitVec.ofNat 8 (counter / div), false⟩
      else ⟨counter - (256 - tima.toNat) * div, 0, true⟩ := by
  induction n generalizing counter tima with
  | zero => exact absurd tima.isLt (by omega)
  | succ n ih =>
    by_cases hc : counter < div
    · rw [countLoop_stop hc, Nat.div_eq_of_lt hc, Nat.mod_eq_of_lt hc, if_pos (by simpa using tima.isLt)]
      simp
    have hq : counter / div = (counter - div) / div + 1 := Nat.div_eq_sub_div hdiv (by omega)
    by_cases ht : tima = 0xFF#8
    · subst ht
      have hff : (0xFF#8).toNat = 255 := rfl
      have hq1 : 1 ≤ counter / div := Nat.div_pos (Nat.not_lt.mp hc) hdiv
      rw [countLoop_wrap hc, hff, if_neg (Nat.not_lt.mpr (Nat.add_le_add_left hq1 255))]
      simp
    · have hsucc : (tima + 1).toNat = tima.toNat + 1 := toNat_succ_of_ne_ff ht
      have hlt : (tima + 1).toNat < 256 := (tima + 1).isLt
      have hmod : (counter - div) % div = counter % div := (Nat.mod_eq_sub_mod (by omega)).symm
      have htima : tima + 1 + BitVec.ofNat 8 ((counter - div) / div) =
          tima + BitVec.ofNat 8 (counter / div) := by
        rw [hq, BitVec.ofNat_add, BitVec.add_assoc, BitVec.add_comm 1]
        rfl
      have hrest : counter - div - (256 - (tima + 1).toNat) * div =
          counter - (256 - tima.toNat) * div := by
        obtain ⟨k, hk⟩ : ∃ k, 256 - tima.toNat = k + 1 := ⟨255 - tima.toNat, by omega⟩
        rw [hk, show 256 - (tima + 1).toNat = k by omega, Nat.add_mul, Nat.one_mul, Nat.sub_sub,
          Nat.add_comm div]
      rw [countLoop_go hc ht, ih _ _ (by omega), hmod, htima, hrest, hsucc, hq,
        Nat.add_assoc, Nat.add_comm 1]

/-- Settles O23: 256 rounds cover every TIMA. -/
theorem countLoopClosedForm : Obligations.CountLoopClosedForm := fun _ counter tima hdiv =>
  countLoop_eq hdiv countFuel counter tima (Nat.le_add_left _ _)

/-! ### What counting leaves -/

theorem counted_disabled {tac : Byte} (h : tac.getLsbD 2 = false) (c : Cycles) (phase : Nat) (x : Byte) :
    counted tac c phase x = ⟨phase, x, false⟩ := if_pos h

theorem counted_enabled {tac : Byte} (h : tac.getLsbD 2 = true) (c : Cycles) (phase : Nat) (x : Byte) :
    counted tac c phase x = countLoop countFuel (divisorOf tac) (phase + c.toNat) x := by
  rw [counted, if_neg (by simp [h])]
  exact (countLoopClosedForm _ _ _ (tacDivisor_pos tac)).symm

/-- Step 7 is `counted` (R147); before it the overflow-delay flag is clear. -/
theorem step7_eq_counted (c : Cycles) {t : Timer} (h : t.timaOverflow = false) :
    step7Count c (tacDivisor t.tac) t =
      ({ t with
          timerCounter := (counted t.tac c t.timerCounter t.tima).counter
          tima := (counted t.tac c t.timerCounter t.tima).tima
          timaOverflow := (counted t.tac c t.timerCounter t.tima).wrapped },
        (counted t.tac c t.timerCounter t.tima).wrapped) := by
  cases he : t.tac.getLsbD 2 with
  | false => rw [step7_disabled he, counted_disabled he, ← h]
  | true => rw [step7_enabled he, counted_enabled he, h, Bool.false_or]; rfl

/-- `counted` of an enabled timer, field by field, by the quotient `n`. -/
theorem counted_fields {tac : Byte} (h : tac.getLsbD 2 = true) (c : Cycles) (phase : Nat) (x : Byte)
    {n : Nat} (hn : n = (phase + c.toNat) / divisorOf tac) :
    counted tac c phase x =
      ⟨if x.toNat + n < 256 then (phase + c.toNat) % divisorOf tac
        else phase + c.toNat - (256 - x.toNat) * divisorOf tac,
      if x.toNat + n < 256 then x + BitVec.ofNat 8 n else 0, decide (256 ≤ x.toNat + n)⟩ := by
  rw [counted, if_neg (by simp [h]), ← hn]
  by_cases hlt : x.toNat + n < 256
  · rw [if_pos hlt, if_pos hlt, if_pos hlt, decide_eq_false (Nat.not_le.mpr hlt)]
  · rw [if_neg hlt, if_neg hlt, if_neg hlt, decide_eq_true (Nat.not_lt.mp hlt)]

theorem counted_tima_of_wrapped {tac : Byte} {c : Cycles} {phase : Nat} {x : Byte}
    (h : (counted tac c phase x).wrapped = true) : (counted tac c phase x).tima = 0 := by
  cases he : tac.getLsbD 2 with
  | false => rw [counted_disabled he] at h; cases h
  | true =>
    rw [counted_enabled he] at h ⊢
    exact countLoop_tima_of_wrapped h

theorem counted_counter_lt {tac : Byte} (he : tac.getLsbD 2 = true) {c : Cycles} {phase : Nat} {x : Byte}
    (h : (counted tac c phase x).wrapped = false) :
    (counted tac c phase x).counter < divisorOf tac := by
  rw [counted, if_neg (by simp [he])] at h ⊢
  split at h
  · rw [if_pos ‹_›]
    exact Nat.mod_lt _ (tacDivisor_pos tac)
  · cases h

/-! ### TIMA and the reset index, step by step -/

theorem tacDivisor_eq (tac : Byte) : tacDivisor tac = divisorOf tac := rfl

theorem ite_add_one (p : Prop) [Decidable p] (x : Byte) : (if p then x + 1 else x) = x + oneIf p := by
  unfold oneIf
  split
  · rfl
  · exact (BitVec.add_zero x).symm

theorem oneIf_congr {p q : Prop} [Decidable p] [Decidable q] (h : p ↔ q) : oneIf p = oneIf q := by
  simp only [oneIf, h]

theorem oneIf_of_not {p : Prop} [Decidable p] (h : ¬ p) : oneIf p = 0 := if_neg h

theorem add_oneIf_of_not {p : Prop} [Decidable p] (h : ¬ p) (x : Byte) : x + oneIf p = x := by
  rw [oneIf_of_not h]
  exact BitVec.add_zero x

/-- Step 1 in the literal reading (R141, decision D10). -/
theorem step1_literal (f : Byte) (t : Timer) :
    step1PendingReload false f t =
      { t with
        tima := if t.timaOverflow = true ∧ t.tima = 0 then t.tma else t.tima
        ifReg := if t.timaOverflow = true ∧ t.ifReg = f then t.ifReg ||| 0x04#8 else t.ifReg
        timaOverflow := false } := by
  cases h : t.timaOverflow with
  | false => rw [step1_normal h]; cases t; cases h; simp
  | true => rw [step1_pending h]; simp [Params.timerIfBit]

theorem step3_tima (t : Timer) :
    (step3DivReset (divisorOf t.tac) t).tima = t.tima + oneIf (resetBumps t) := by
  cases h : t.divReset with
  | false => rw [step3_quiet h, add_oneIf_of_not (by simp [resetBumps, h])]
  | true =>
    rw [step3_reset h, ← oneIf_congr (p := t.divResetIndex ≥ ((divisorOf t.tac / 2 : Nat) : Int))
      (by simp [resetBumps, h])]
    exact ite_add_one _ _

/-- Settles O20: the step's two cases, with the increment written as a sum. -/
theorem tacChangeGlitchesAtMostOnce : Obligations.TacChangeGlitchesAtMostOnce := by
  intro g div t
  cases h : t.tacChanged with
  | false => rw [step4_quiet h, add_oneIf_of_not (by simp)]; cases t; cases h; rfl
  | true => simp only [step4_changed h, ite_add_one, true_and]; rfl

theorem step4_tima (g : TacGlitch) (div : Nat) (t : Timer) :
    (step4TacChanged g div t).tima = t.tima + oneIf (t.tacChanged = true ∧ t.oldTac.getLsbD 2 = true ∧
      g (divisorOf t.oldTac) (t.tac.getLsbD 2) div t.timerCounter t.divResetIndex = true) :=
  congrArg Timer.tima (tacChangeGlitchesAtMostOnce g div t)

theorem step6_tima (c : Cycles) (div : Nat) (t : Timer) :
    (step6ResetIndex c div t).tima =
      t.tima + oneIf (t.divResetIndex ≠ -1 ∧ (div : Int) < t.divResetIndex + (c.toNat : Int)) := by
  by_cases hs : t.divResetIndex = -1
  · rw [step6_terminated hs, add_oneIf_of_not (fun h => h.1 hs)]
  by_cases hi : (div : Int) < t.divResetIndex + (c.toNat : Int)
  · rw [step6_exceeds hs hi, oneIf, if_pos ⟨hs, hi⟩]
  · rw [step6_within hs hi, add_oneIf_of_not (fun h => hi h.2)]

theorem step6_divResetIndex (c : Cycles) (div : Nat) (t : Timer) :
    (step6ResetIndex c div t).divResetIndex =
      if t.divResetIndex = -1 ∨ (div : Int) < t.divResetIndex + (c.toNat : Int) then -1
      else t.divResetIndex + (c.toNat : Int) := by
  by_cases hs : t.divResetIndex = -1
  · rw [step6_terminated hs, if_pos (.inl hs), hs]
  by_cases hi : (div : Int) < t.divResetIndex + (c.toNat : Int)
  · rw [step6_exceeds hs hi, if_pos (.inr hi)]
  · rw [step6_within hs hi, if_neg (by rintro (h | h) <;> contradiction)]

/-! ### The eight steps together -/

/-- TIMA as counting finds it: reloaded in the overflow-delay window, then one more for each of steps 3, 4
and 6 that increments it (R141, R143, R144, R146). -/
def timaBeforeCount (g : TacGlitch) (c : Cycles) (t : Timer) : Byte :=
  (if t.timaOverflow = true ∧ t.tima = 0 then t.tma else t.tima) + oneIf (resetBumps t) +
    oneIf (changeBumps g t) + oneIf (indexBumps t c)

/-- Steps 3, 4 and 6 find in the timers they are given what the timer at the start of the call shows: the
steps before them touch neither the signals nor TAC, and step 3 alone moves the phase and the index. -/
theorem beforeCount_tima (g : TacGlitch) (c : Cycles) (f : Byte) (t : Timer) :
    (beforeCount g false c f t).1.tima = timaBeforeCount g c t := by
  have hreset : oneIf (resetBumps (step1PendingReload false f t)) = oneIf (resetBumps t) := by
    simp [resetBumps]
  have h1 : (step1PendingReload false f t).tima =
      if t.timaOverflow = true ∧ t.tima = 0 then t.tma else t.tima := by rw [step1_literal]
  have h3 := step3_tima (step1PendingReload false f t)
  rw [hreset, h1, step1_tac] at h3
  have hchange : oneIf (changeBumps g t) = _ := oneIf_congr (q := _ ∧ _ ∧ _)
    (by simp only [changeBumps, Bool.and_eq_true, and_assoc]; rfl)
  have hindex : oneIf (indexBumps t c) = _ := oneIf_congr (q := _ ∧ _)
    (by simp only [indexBumps, Bool.and_eq_true, bne_iff_ne, decide_eq_true_eq]; rfl)
  rw [timaBeforeCount, ← h3, hchange, hindex]
  simp only [beforeCount, step1_tac, step1_tacChanged, step1_oldTac, step1_divReset, step1_timerCounter,
    step1_divResetIndex, step3_tac, step3_tacChanged, step3_oldTac, step3_timerCounter,
    step3_divResetIndex, step4_tima, step4_divResetIndex, step5_tima, step5_divResetIndex, step6_tima,
    tacDivisor_eq]
  rfl

theorem beforeCount_divResetIndex (g : TacGlitch) (n : Bool) (c : Cycles) (f : Byte) (t : Timer) :
    (beforeCount g n c f t).1.divResetIndex =
      if indexAfterReset t = -1 ∨ (divisorOf t.tac : Int) < indexAfterReset t + (c.toNat : Int) then -1
      else indexAfterReset t + (c.toNat : Int) := by
  simp only [beforeCount, step6_divResetIndex, step5_divResetIndex, step4_divResetIndex,
    step3_divResetIndex, step1_tac, step1_divReset, step1_divResetIndex]
  rfl

/-- `T.UPDATE` on the timer in the literal reading, all fields at once (R131, R141 to R148). -/
theorem timerUpdate_eq (g : TacGlitch) (c : Cycles) (f : Byte) (t : Timer) :
    timerUpdate g false c f t =
      ({ t with
          tima := (counted t.tac c (phaseAfterReset t) (timaBeforeCount g c t)).tima
          timerCounter := (counted t.tac c (phaseAfterReset t) (timaBeforeCount g c t)).counter
          timaOverflow := (counted t.tac c (phaseAfterReset t) (timaBeforeCount g c t)).wrapped
          ifReg := if t.timaOverflow = true ∧ t.ifReg = f then t.ifReg ||| 0x04#8 else t.ifReg
          divReset := false
          tacChanged := false
          divResetIndex :=
            if indexAfterReset t = -1 ∨ (divisorOf t.tac : Int) < indexAfterReset t + (c.toNat : Int)
            then -1 else indexAfterReset t + (c.toNat : Int)
          oscillator := (if t.divReset then 0 else t.oscillator) + c.setWidth Params.oscW
          div := ((if t.divReset then 0 else t.oscillator) + c.setWidth Params.oscW).extractLsb' 8 8
          oldTac := t.tac },
        (counted t.tac c (phaseAfterReset t) (timaBeforeCount g c t)).wrapped) := by
  obtain ⟨htac, htma, hdr, htc, hov, -, hif, hph, hosc, hdiv⟩ := beforeCount_fields g false c f t
  have hif' : (step1PendingReload false f t).ifReg =
      if t.timaOverflow = true ∧ t.ifReg = f then t.ifReg ||| 0x04#8 else t.ifReg := by
    rw [step1_literal]
  simp only [timerUpdate, beforeCount_div]
  rw [← htac, step7_eq_counted c hov]
  simp only [htac, htma, hdr, htc, hif, hif', hph, hosc, hdiv, beforeCount_tima,
    beforeCount_divResetIndex]
  rfl

/-- Settles O60: after `POR` the operation is `timerUpdate` in the literal reading, whose fields are known. -/
theorem updateInClosedForm : Obligations.UpdateInClosedForm := by
  intro s c f hp loaded r osc hl hr ho
  subst hl hr ho
  have hex : exec (.tUpdate c f) s = .next ((s.withTimer (timerUpdate tacGlitch false c f s.tmr).1).answer
      (.irq (timerUpdate tacGlitch false c f s.tmr).2)) := exec_tUpdate hp c f
  rw [hex, timerUpdate_eq]
  rfl

/-! ### The causes, where they are absent -/

theorem phaseAfterReset_of_quiet {t : Timer} (h : t.divReset = false) :
    phaseAfterReset t = t.timerCounter := by simp [phaseAfterReset, h]

theorem indexAfterReset_of_quiet {t : Timer} (h : t.divReset = false) :
    indexAfterReset t = t.divResetIndex := by simp [indexAfterReset, h]

theorem resetBumps_of_quiet {t : Timer} (h : t.divReset = false) : resetBumps t = false := by
  simp [resetBumps, h]

theorem changeBumps_of_quiet {t : Timer} (h : t.tacChanged = false) (g : TacGlitch) :
    changeBumps g t = false := by simp [changeBumps, h]

theorem indexBumps_of_terminated {t : Timer} (h : indexAfterReset t = -1) (c : Cycles) :
    indexBumps t c = false := by simp [indexBumps, h]

theorem indexBumps_iff (t : Timer) (c : Cycles) :
    indexBumps t c = true ↔ indexAfterReset t ≠ -1 ∧
      (divisorOf t.tac : Int) < indexAfterReset t + (c.toNat : Int) := by
  simp only [indexBumps, Bool.and_eq_true, bne_iff_ne, decide_eq_true_eq]

/-- R149 and the enable test of R144: a TAC change that finds the timer disabled, or that changes neither
enable nor divisor, does not increment TIMA. -/
theorem changeBumps_of_harmless {t : Timer} (h : t.oldTac.getLsbD 2 = false ∨ t.oldTac = t.tac) :
    changeBumps tacGlitch t = false := by
  cases he : t.oldTac.getLsbD 2 with
  | false => rw [changeBumps, he, Bool.and_false, Bool.false_and]
  | true =>
    have hsame : t.oldTac = t.tac := h.resolve_left (by simp [he])
    rw [hsame] at he
    rw [changeBumps, hsame, he, tacGlitch_same, Bool.and_false]

/-! ### One cause at a time -/

/-- Settles O18: of the eight steps together only the reload, the oscillator and counting are left. -/
theorem pendingReload : Obligations.PendingReload := by
  intro s c f hp hov hdr htc hidx r hr
  subst hr
  rw [updateInClosedForm s c f hp _ _ _ rfl rfl rfl]
  have hindex : indexAfterReset s.tmr = -1 := (indexAfterReset_of_quiet hdr).trans hidx
  simp [phaseAfterReset_of_quiet hdr, hindex, resetBumps_of_quiet hdr, changeBumps_of_quiet htc,
    indexBumps_of_terminated hindex, oneIf_of_not, advanced, hov, hdr, htc, hidx]

/-- Settles O22: the index that step 6 sees is the stored one, and TIMA moves by it alone before counting. -/
theorem resetIndexTracking : Obligations.ResetIndexTracking := by
  intro s c f hp hov hdr htc div r hdiv hr
  subst hdiv hr
  rw [updateInClosedForm s c f hp _ _ _ rfl rfl rfl]
  simp [phaseAfterReset_of_quiet hdr, indexAfterReset_of_quiet hdr, resetBumps_of_quiet hdr,
    changeBumps_of_quiet htc, indexBumps_iff, oneIf_of_not, advanced, hov, hdr, htc]

/-- The high byte of an oscillator that has counted one call's cycles from 0 is 0 (R145). -/
theorem highByte_cycles (c : Cycles) : (c.setWidth Params.oscW).extractLsb' 8 8 = 0#8 := by
  apply BitVec.eq_of_toNat_eq
  have hc : c.toNat < 256 := c.isLt
  rw [toNat_highByte, BitVec.toNat_setWidth_of_le (by decide), Nat.div_eq_of_lt hc]
  rfl

/-- Settles O19: step 3 compares the stored index with half the divisor and restarts it, so step 6 compares
the cycles alone with the divisor. -/
theorem dividerReset : Obligations.DividerReset := by
  intro s c f hp hov hdr htc div r hdiv hr
  subst hdiv hr
  rw [updateInClosedForm s c f hp _ _ _ rfl rfl rfl]
  have hphase : phaseAfterReset s.tmr = 0 := by simp [phaseAfterReset, hdr]
  have hindex : indexAfterReset s.tmr = 0 := by simp [indexAfterReset, hdr]
  simp [hphase, hindex, resetBumps, changeBumps_of_quiet htc, indexBumps_iff, oneIf_of_not, hov, hdr, htc,
    highByte_cycles]

/-- Settles O24: with the reset index terminated the tracking case leaves the phase, TIMA and the flag of
`counted`, whose two branches the statement writes out. -/
theorem countingAtTheSelectedRate : Obligations.CountingAtTheSelectedRate := by
  intro s c f hp ⟨hov, hdr, htc, hidx⟩ hen div n hdiv hn
  have hdiv' : div = divisorOf s.tmr.tac := hdiv
  rw [hdiv'] at hn ⊢
  rw [resetIndexTracking s c f hp hov hdr htc _ _ rfl rfl, add_oneIf_of_not (fun h => h.1 hidx),
    counted_fields hen c _ _ hn]
  simp only [hidx, true_or, if_true]

/-! ### What holds of every completed `T.UPDATE` -/

/-- A completed `T.UPDATE` comes after `POR`, so its next state is that of the closed form. -/
theorem exec_tUpdate_next {s t : State} {c : Cycles} {f : Byte} (h : exec (.tUpdate c f) s = .next t) :
    t = (s.withTimer (timerUpdate tacGlitch false c f s.tmr).1).answer
      (.irq (timerUpdate tacGlitch false c f s.tmr).2) := (doneTimer_next h).2

/-- Settles O16: the fields of the closed form that no cause reaches; a wrap leaves TIMA 0. -/
theorem updateFrame : Obligations.UpdateFrame := by
  intro s t c f h
  rw [exec_tUpdate_next h, timerUpdate_eq]
  exact ⟨rfl, rfl, rfl, rfl, rfl, rfl, rfl, rfl, counted_tima_of_wrapped⟩

/-- Settles O17: IF is moved by step 1 alone, in the literal reading. -/
theorem updateRequestsOnlyForAPendingOverflow : Obligations.UpdateRequestsOnlyForAPendingOverflow := by
  intro s t c f h
  rw [exec_tUpdate_next h, timerUpdate_eq]
  rfl

/-- Settles O25: no wrap means the loop stopped below the divisor. -/
theorem remainderBelowTheDivisor : Obligations.RemainderBelowTheDivisor := by
  intro s t c f h hen hirq
  rw [exec_tUpdate_next h, timerUpdate_eq] at hirq ⊢
  exact counted_counter_lt hen (OpResult.irq.inj hirq)

theorem timerUpdate_of_harmless {t : Timer} (h : t.oldTac.getLsbD 2 = false ∨ t.oldTac = t.tac)
    (c : Cycles) (f : Byte) (b : Bool) :
    timerUpdate tacGlitch false c f { t with tacChanged := b } = timerUpdate tacGlitch false c f t := by
  have hl : changeBumps tacGlitch { t with tacChanged := b } = false := changeBumps_of_harmless h
  have hr : changeBumps tacGlitch t = false := changeBumps_of_harmless h
  have htima : timaBeforeCount tacGlitch c { t with tacChanged := b } = timaBeforeCount tacGlitch c t := by
    rw [timaBeforeCount, hl, timaBeforeCount, hr]
    rfl
  rw [timerUpdate_eq, timerUpdate_eq, htima]
  rfl

/-- Settles O21: the signal reaches the next state through the increment of step 4 alone, and that does not
happen. -/
theorem harmlessTacWrite : Obligations.HarmlessTacWrite := by
  intro s c f h
  have hupdate : timerUpdate tacGlitch false c f { s.tmr with tacChanged := true } =
      timerUpdate tacGlitch false c f { s.tmr with tacChanged := false } :=
    (timerUpdate_of_harmless h c f true).trans (timerUpdate_of_harmless h c f false).symm
  change doneTimer _ (timerUpdate tacGlitch false c f { s.tmr with tacChanged := true }).1
    (.irq (timerUpdate tacGlitch false c f { s.tmr with tacChanged := true }).2) = _
  rw [hupdate]
  rfl

/-! ### Several calls -/

theorem runUpdates_cons {s t : State} {c : Cycles × Byte} (h : exec (.tUpdate c.1 c.2) s = .next t)
    (rest : List (Cycles × Byte)) : runUpdates (c :: rest) s = runUpdates rest t := by
  rw [runUpdates, h, andThen]

/-- Any number of calls with no divider reset pending: the oscillator has counted their total (R163 (a)),
and DIV is its high byte (R163 (b)). -/
theorem runUpdates_oscillator (calls : List (Cycles × Byte)) {s : State} (hp : s.host.porDone = true)
    (hdr : s.tmr.divReset = false) (hdiv : s.tmr.div = s.tmr.oscillator.extractLsb' 8 8) :
    ∃ t, runUpdates calls s = .next t ∧
      t.tmr.oscillator.toNat = (s.tmr.oscillator.toNat + (calls.map fun c => c.1.toNat).sum) % 65536 ∧
      t.tmr.div = t.tmr.oscillator.extractLsb' 8 8 := by
  induction calls generalizing s with
  | nil => exact ⟨s, rfl, (Nat.mod_eq_of_lt s.tmr.oscillator.isLt).symm, hdiv⟩
  | cons c rest ih =>
    have hex : exec (.tUpdate c.1 c.2) s = _ := exec_tUpdate hp c.1 c.2
    have hu := timerUpdate_eq tacGlitch c.1 c.2 s.tmr
    obtain ⟨t, ht, hosc, htdiv⟩ := ih
      (s := (s.withTimer (timerUpdate tacGlitch false c.1 c.2 s.tmr).1).answer
        (.irq (timerUpdate tacGlitch false c.1 c.2 s.tmr).2)) hp (by rw [hu]; rfl) (by rw [hu]; rfl)
    refine ⟨t, (runUpdates_cons hex rest).trans ht, ?_, htdiv⟩
    rw [hosc, answer_tmr, withTimer_tmr, timerUpdate_oscillator, hdr, toNat_oscillator_add,
      List.map_cons, List.sum_cons]
    simp [Nat.add_assoc]

/-- Settles O26: from a low byte of 0 the high byte of the oscillator counts whole 256s. -/
theorem updatesAddUp : Obligations.UpdatesAddUp := by
  intro calls s hp hdr hdiv
  obtain ⟨t, ht, hosc, htdiv⟩ := runUpdates_oscillator calls hp hdr hdiv
  refine ⟨t, ht, hosc, fun hlow => ?_⟩
  rw [htdiv, hdiv, toNat_highByte, toNat_highByte, hosc]
  omega

/-! ### The calling convention -/

/-- The operations of the window leave the overflow-delay flag and IF (R274). -/
theorem exec_keepsRequest {i : Instr} {s t : State} (hi : keepsRequest i = true) (h : exec i s = .next t) :
    t.tmr.timaOverflow = s.tmr.timaOverflow ∧ t.tmr.ifReg = s.tmr.ifReg := by
  have hpor : i ≠ .por := by rintro rfl; cases hi
  rcases isTimerOp_or_isVideoOp hpor with ht | hv
  · rw [exec_timerOp_next ht h, answer_tmr, withTimer_tmr]
    cases i with
    | por | tReset | tUpdate | busWr8If => cases hi
    | _ => exact ⟨rfl, rfl⟩
  · obtain ⟨u, r, d, rfl⟩ := exec_videoOp_frame hv h
    exact ⟨rfl, rfl⟩

theorem andThen_next {o : Answer} {k : State → Answer} {t : State} (h : andThen o k = .next t) :
    ∃ u, o = .next u ∧ k u = .next t := by
  cases o with
  | next u => exact ⟨u, rfl, h⟩
  | fault f => cases h
  | refused r => cases h

theorem runOps_keepsRequest {ops : List Instr} {s t : State} (hops : ∀ i ∈ ops, keepsRequest i = true)
    (h : runOps ops s = .next t) :
    t.tmr.timaOverflow = s.tmr.timaOverflow ∧ t.tmr.ifReg = s.tmr.ifReg := by
  induction ops generalizing s with
  | nil => cases h; exact ⟨rfl, rfl⟩
  | cons i rest ih =>
    obtain ⟨u, hu, hrest⟩ := andThen_next h
    obtain ⟨hov, hif⟩ := exec_keepsRequest (hops i List.mem_cons_self) hu
    obtain ⟨hov', hif'⟩ := ih (fun j hj => hops j (List.mem_cons_of_mem i hj)) hrest
    exact ⟨hov'.trans hov, hif'.trans hif⟩

/-- Settles O27: the sample is IF, the window keeps IF and the flag, and step 1 raises the request where IF
is still the sample. -/
theorem requestKeptWhereTheWindowDoesNotWriteIf : Obligations.RequestKeptWhereTheWindowDoesNotWriteIf := by
  intro s t c ops hov hops h
  obtain ⟨s1, hs1, h⟩ := andThen_next h
  obtain ⟨s2, hs2, h⟩ := andThen_next h
  obtain ⟨-, rfl⟩ := doneRead_next hs1
  obtain ⟨hov2, hif2⟩ := runOps_keepsRequest hops hs2
  rw [updateRequestsOnlyForAPendingOverflow s2 t c _ h, hif2]
  exact if_pos ⟨hov2.trans hov, rfl⟩

/-! ### Writes that reach the next `T.UPDATE` -/

section SignalWrites

variable {s : State} (hp : s.host.porDone = true) (v : Byte)
include hp

theorem exec_busWr8Div :
    exec (.busWr8Div v) s = .next ((s.withTimer { s.tmr with divReset := true }).answer .none) :=
  doneTimer_of_porDone hp _ _

theorem exec_busWr8Tac :
    exec (.busWr8Tac v) s =
      .next ((s.withTimer { s.tmr with tac := tacStored v, tacChanged := true }).answer .none) :=
  doneTimer_of_porDone hp _ _

theorem exec_busWr8If :
    exec (.busWr8If v) s = .next ((s.withTimer { s.tmr with ifReg := ifStored v }).answer .none) :=
  doneTimer_of_porDone hp _ _

end SignalWrites

/-- Settles O30: each write is one field update with its mask and its signal. -/
theorem signalWrites : Obligations.SignalWrites := fun _ v hp =>
  ⟨exec_busWr8Div hp v, exec_busWr8Tac hp v, exec_busWr8If hp v⟩

theorem runOps_pair {i j : Instr} {s t u : State} (hi : exec i s = .next t) (hj : exec j t = .next u) :
    runOps [i, j] s = .next u := by
  rw [runOps, hi, andThen, runOps, hj, andThen, runOps]

theorem timerUpdate_oscillator_of_divReset {t : Timer} (h : t.divReset = true) (g : TacGlitch) (n : Bool)
    (c : Cycles) (f : Byte) : (timerUpdate g n c f t).1.oscillator = c.setWidth Params.oscW := by
  rw [timerUpdate_oscillator, h]
  simp

/-- Settles O31: the write raises the signal alone, the read is of the old DIV, and the update counts from
0, where 8 bits of cycles do not reach DIV. -/
theorem divWriteIsSeenOneUpdateLate : Obligations.DivWriteIsSeenOneUpdateLate := by
  intro s v f c hp
  have hread := runOps_pair (exec_busWr8Div hp v) (exec_busRd8Div hp)
  refine ⟨_, _, hread, rfl, exec_tUpdate (by exact hp) c f, ?_, ?_⟩
  · rw [answer_tmr, withTimer_tmr, timerUpdate_oscillator_of_divReset,
      BitVec.toNat_setWidth_of_le (by decide)]
    rfl
  · rw [answer_tmr, withTimer_tmr, timerUpdate_div, timerUpdate_oscillator_of_divReset, highByte_cycles]
    · rfl
    · rfl

end Sys2Proof.Proofs
end

section
/-! SUPPORT. The family of spec/41_video_registers.md, continued: the registers without state, the scanline,
the writes of CTRL and ORIGIN, the vertical interrupt, and the law of a read after a write (R198). -/

namespace Sys2Proof.Proofs

open Sys2Proof.Machine Sys2Proof.Claims

/-! ### What an ignored or an environment's operation answers after `POR` -/

theorem writeIgnored_of_porDone {s : State} (hp : s.host.porDone = true) :
    writeIgnored s = .next (s.answer (.diag false)) := doneRead_of_porDone hp _

theorem exec_viVint {s : State} (hp : s.host.porDone = true) :
    exec .viVint s = .next ((s.withVideo (raiseVertical s.vi)).answer .none) := doneVideo_of_porDone hp _ _

theorem exec_viWr32Origin {s : State} (hp : s.host.porDone = true) (v : Word) :
    exec (.viWr32Origin v) s = .next (registerWritten s
      { s.vi with
        origin := originStored v
        srcBound := if s.env.dramAttached then true else s.vi.srcBound
        frameCount := s.vi.frameCount + 1 }) :=
  writeMapped_of_porDone hp _

/-- Settles O38: five ignored writes and five unmapped reads (R193, R194). -/
theorem statusOnlyRegisters : Obligations.StatusOnlyRegisters := by
  intro s v hp
  simp only [List.forall_mem_cons]
  have hw := writeIgnored_of_porDone hp
  have hr := readUnmapped_of_porDone hp
  exact ⟨⟨hw, hw, hw, hw, hw, by simp⟩, hr, hr, hr, hr, hr, by simp⟩

/-- Settles O39: the line is the environment's draw, and the answer is a read in the state that has used it. -/
theorem currentLineIsAnInput : Obligations.CurrentLineIsAnInput := fun s hp =>
  ⟨Config.vCurrentIn s.host.draws, readMapped_of_porDone (s := (drawScanline s).2) hp _⟩

/-- Settles O44: raising the condition twice is raising it once. -/
theorem verticalInterruptBecomesPending : Obligations.VerticalInterruptBecomesPending := fun _ hp =>
  ⟨_, exec_viVint hp, rfl, exec_viVint hp⟩

/-! ### The pixel format -/

/-- The format field as a number (R113, decision D18). -/
theorem toNat_formatField (ctrl : Word) :
    (ctrl.extractLsb' Params.fmtLsb Params.fmtW).toNat = ctrl.toNat % 4 := by
  rw [BitVec.extractLsb'_toNat]
  rfl

/-- The four codes of R113. -/
theorem pixelFormat_eq (ctrl : Word) :
    pixelFormat ctrl =
      if ctrl.toNat % 4 = 0 then .disabled else if ctrl.toNat % 4 = 2 then .rgb16
      else if ctrl.toNat % 4 = 3 then .rgba32 else .other := by
  simp only [pixelFormat, ← BitVec.toNat_inj, toNat_formatField]
  rfl

/-- Each format by its code; the codes are exhaustive. -/
theorem pixelFormat_iff (ctrl : Word) :
    (pixelFormat ctrl = .disabled ↔ ctrl.toNat % 4 = 0) ∧
    (pixelFormat ctrl = .other ↔ ctrl.toNat % 4 = 1) ∧
    (pixelFormat ctrl = .rgb16 ↔ ctrl.toNat % 4 = 2) ∧
    (pixelFormat ctrl = .rgba32 ↔ ctrl.toNat % 4 = 3) := by
  have hlt : ctrl.toNat % 4 < 4 := Nat.mod_lt _ (by decide)
  rw [pixelFormat_eq]
  split_ifs with h0 h2 h3 <;> simp only [true_iff, false_iff] <;> omega

/-- The mask of CTRL keeps the format field whole. -/
theorem toNat_and_ctrlMask_mod (v : Word) : (v &&& Params.ctrlMask).toNat % 4 = v.toNat % 4 := by
  have hmask : Params.ctrlMask.toNat % 2 ^ 2 = 2 ^ 2 - 1 := by decide
  rw [BitVec.toNat_and, show 4 = 2 ^ 2 from rfl, Nat.and_mod_two_pow, hmask,
    Nat.and_two_pow_sub_one_eq_mod, Nat.mod_mod]

/-- Settles O41: the stored word has the format field of the written one. -/
theorem formatCodes : Obligations.FormatCodes := by
  intro v
  rw [← toNat_and_ctrlMask_mod]
  exact pixelFormat_iff _

/-! ### ORIGIN -/

/-- The 24-bit mask is the remainder by 2^24 (R174). -/
theorem toNat_originStored (v : Word) : (originStored v).toNat = v.toNat % 2 ^ 24 := by
  have hmask : Params.originMask.toNat = 2 ^ 24 - 1 := by decide
  rw [originStored, toNat_masked_setWidth (by decide), BitVec.toNat_and, hmask,
    Nat.and_two_pow_sub_one_eq_mod]

/-- Settles O42: the write with its three fields; the new binding is the old one or the attachment. -/
theorem originWrite : Obligations.OriginWrite := by
  intro s v hp
  refine ⟨originStored v, s.vi.frameCount + 1, (exec_viWr32Origin hp v).trans ?_, toNat_originStored v,
    BitVec.toNat_add _ _⟩
  have hbound : (if s.env.dramAttached then true else s.vi.srcBound) =
      (s.vi.srcBound || s.env.dramAttached) := by
    cases s.env.dramAttached <;> simp
  rw [hbound]
  rfl

/-! ### A read after a write (R198) -/

/-- A masked field that was cut to its width is widened back to the masked word. -/
theorem setWidth_masked {n : Nat} {m : Word} (hm : m.toNat < 2 ^ n) (v : Word) :
    ((v &&& m).setWidth n).setWidth 32 = v &&& m := by
  apply BitVec.eq_of_toNat_eq
  rw [BitVec.toNat_setWidth, toNat_masked_setWidth hm, Nat.mod_eq_of_lt (v &&& m).isLt]

/-- The two fields of an extent, put back where they were written (R114). -/
theorem extentWord_stored (v : Word) : extentWord (extentStart v) (extentEnd v) = v &&& 0x03FF03FF#32 := by
  have hmask : ∀ i, i < 32 →
      (0x03FF03FF#32).getLsbD i = (decide (i < 10) || (decide (16 ≤ i) && decide (i < 26))) := by decide
  rw [extentStart_eq_extractLsb', extentEnd_eq_extractLsb', extentWord]
  refine BitVec.eq_of_getLsbD_eq fun i hi => ?_
  rw [BitVec.getLsbD_and, hmask i hi]
  by_cases h10 : i < 10
  · simp [hi, h10, show i < 16 by omega]
  by_cases h16 : i < 16
  · simp [h10, h16]
  · have hback : 16 + (i - 16) = i := by omega
    by_cases h26 : i < 26
    · simp [hi, h10, h16, h26, hback, show 16 ≤ i by omega, show i - 16 < 10 by omega]
    · simp [h10, h16, h26, show ¬ i - 16 < 10 by omega]

/-- A register write and the read of the same register, whose value is the masked word. -/
theorem runOps_writeRead {i j : Instr} {s : State} {u : Video} {x v m : Word}
    (hw : exec i s = .next (registerWritten s u))
    (hr : exec j (registerWritten s u) = .next (wordReturned (registerWritten s u) x)) (hx : x = v &&& m) :
    ∃ t, runOps [i, j] s = .next t ∧ t.host.result = .word (v &&& m) false :=
  ⟨_, runOps_pair hw hr, congrArg (OpResult.word · false) hx⟩

/-- Settles O45: each pair is its write and its read, and each register gives back the masked word. -/
theorem writeThenRead : Obligations.WriteThenRead := by
  intro s v hp
  simp only [List.forall_mem_cons]
  exact ⟨runOps_writeRead (exec_viWr32Ctrl hp v) (exec_viRd32Ctrl hp) rfl,
    runOps_writeRead (exec_viWr32Origin hp v) (exec_viRd32Origin hp) (setWidth_masked (by decide) v),
    runOps_writeRead (exec_viWr32Width hp v) (exec_viRd32Width hp) (setWidth_masked (by decide) v),
    runOps_writeRead (exec_viWr32VIntr hp v) (exec_viRd32VIntr hp) (setWidth_masked (by decide) v),
    runOps_writeRead (exec_viWr32HVideo hp v) (exec_viRd32HVideo hp) (extentWord_stored v),
    runOps_writeRead (exec_viWr32VVideo hp v) (exec_viRd32VVideo hp) (extentWord_stored v),
    runOps_writeRead (exec_viWr32XScale hp v) (exec_viRd32XScale hp) (setWidth_masked (by decide) v),
    runOps_writeRead (exec_viWr32YScale hp v) (exec_viRd32YScale hp) (setWidth_masked (by decide) v),
    by simp⟩

end Sys2Proof.Proofs
end

section
/-! SUPPORT. The family of spec/42_video_redraw.md, continued: the dimensions by the formula of R211, when a
redraw is refused and what it answers, the pixels of both formats, and the laws of R221 and R222. -/

namespace Sys2Proof.Proofs

open Sys2Proof.Machine Sys2Proof.Claims

/-! ### Dimensions and conditions -/

theorem scaledWidth_eq (v : Video) : scaledWidth v = widthOf v := Nat.shiftRight_eq_div_pow _ 10

theorem scaledHeight_eq (v : Video) : scaledHeight v = heightOf v := Nat.shiftRight_eq_div_pow _ 10

theorem effectiveScale_le (scale : BitVec 12) : (if scale = 0 then 1024 else scale.toNat) ≤ 4095 := by
  have hlt : scale.toNat < 4096 := scale.isLt
  split <;> omega

theorem widthOf_le (v : Video) : widthOf v ≤ 4091 := by
  have hspan : v.hEnd.toNat - v.hStart.toNat ≤ 1023 := by
    have hlt : v.hEnd.toNat < 1024 := v.hEnd.isLt
    omega
  have hmul := Nat.mul_le_mul hspan (effectiveScale_le v.xScale)
  have hdiv := Nat.div_le_div_right (c := 1024) hmul
  exact hdiv.trans (by decide)

theorem heightOf_le (v : Video) : heightOf v ≤ 2043 := by
  have hspan : (v.vEnd.toNat - v.vStart.toNat) / 2 ≤ 511 := by
    have hlt : v.vEnd.toNat < 1024 := v.vEnd.isLt
    omega
  have hmul := Nat.mul_le_mul hspan (effectiveScale_le v.yScale)
  have hdiv := Nat.div_le_div_right (c := 1024) hmul
  exact hdiv.trans (by decide)

theorem computeDimensions_eq (v : Video) :
    computeDimensions v = { v with outWidth := widthOf v, outHeight := heightOf v } := by
  rw [computeDimensions, scaledWidth_eq, scaledHeight_eq]

theorem extentsReversed_eq_false_iff (v : Video) : extentsReversed v = false ↔ extentsOk v := by
  simp [extentsReversed, extentsOk]

/-- The test of R212 on the computed dimensions is the condition on the registers. -/
theorem blackoutCondition_computed_iff (v : Video) :
    blackoutCondition (computeDimensions v) = true ↔ blackout v := by
  rw [blackoutCondition_iff, computeDimensions_eq, (pixelFormat_iff _).1]
  rfl

theorem windowEnd_computed (v : Video) (bpp : Nat) :
    windowEnd (computeDimensions v) bpp = windowEndOf v bpp := by
  rw [computeDimensions_eq]
  rfl

/-! ### What a redraw answers after `POR` -/

section Answers

variable {s : State} (hp : s.host.porDone = true)
include hp

theorem exec_viRedraw_reversed (hx : extentsReversed s.vi = true) :
    exec .viRedraw s = .refused .extentsReversed := by
  rw [exec_viRedraw, afterPor_of_porDone hp, if_pos hx]

theorem exec_viRedraw_some (hx : extentsReversed s.vi = false) {u : Video}
    (hu : redrawn s.env s.vi = some u) :
    exec .viRedraw s = .next ((s.withVideo u).answer (.redraw true)) := by
  rw [exec_viRedraw, afterPor_of_porDone hp, if_neg (by simp [hx]), hu]
  exact doneVideo_of_porDone hp _ _

theorem exec_viRedraw_none (hx : extentsReversed s.vi = false) (hu : redrawn s.env s.vi = none) :
    exec .viRedraw s = .refused .sourceOutsideDram := by
  rw [exec_viRedraw, afterPor_of_porDone hp, if_neg (by simp [hx]), hu]

end Answers

/-- Settles O46: the extents are tested first, and what follows is refused for another reason or done. -/
theorem redrawRefusesReversedExtents : Obligations.RedrawRefusesReversedExtents := by
  intro s hp
  rw [← extentsReversed_eq_false_iff, Bool.not_eq_false]
  cases hx : extentsReversed s.vi with
  | true => exact iff_of_true (exec_viRedraw_reversed hp hx) rfl
  | false =>
    refine iff_of_false (fun h => ?_) Bool.false_ne_true
    cases hu : redrawn s.env s.vi with
    | none => rw [exec_viRedraw_none hp hx hu] at h; cases h
    | some u => rw [exec_viRedraw_some hp hx hu] at h; cases h

/-- Settles O47: a redraw computes the dimensions and touches the frame only; the bounds are those of the
10-bit extents and 12-bit scales. -/
theorem redrawDimensionsAndFrame : Obligations.RedrawDimensionsAndFrame := by
  intro s t h
  obtain ⟨-, -, u, hu, rfl⟩ := exec_viRedraw_next h
  have hframe := redrawn_frame hu
  rw [computeDimensions_eq] at hframe
  exact ⟨hframe, widthOf_le s.vi, heightOf_le s.vi, rfl, rfl, rfl⟩

/-! ### The blacked-out branch -/

theorem redrawn_of_blackout {v : Video} (h : blackout v) (e : Environment) :
    redrawn e v = some (blackOut (computeDimensions v)) := by
  rw [redrawn, if_pos ((blackoutCondition_computed_iff v).mpr h)]

theorem blackOut_eq (v : Video) :
    blackOut v =
      { v with
        blackedOut := true
        fb := if v.blackedOut then v.fb else List.replicate v.fb.length 0 } := by
  cases h : v.blackedOut with
  | true => rw [blackOut_black h]; cases v; cases h; rfl
  | false => rw [blackOut_rendering h]; rfl

/-- Settles O48: the branch zeroes a rendered buffer and keeps a blacked-out one, which the invariant says is
zero already. -/
theorem redrawBlacksOut : Obligations.RedrawBlacksOut := by
  intro s hp hx hb
  refine ⟨_, exec_viRedraw_some hp ((extentsReversed_eq_false_iff _).mpr hx) (redrawn_of_blackout hb _),
    ?_, fun hinv => ?_⟩
  · rw [blackOut_eq, computeDimensions_eq]
    rfl
  · rw [answer_vi, withVideo_vi, blackOut_eq]
    cases hblack : s.vi.blackedOut with
    | true => simpa [hblack] using List.eq_replicate_of_mem (hinv.blackIsZero hblack)
    | false => simp [hblack]

/-! ### The rendering branch -/

theorem windowReadable_computed (e : Environment) (v : Video) (bpp : Nat) :
    windowReadable e (computeDimensions v) bpp = true ↔
      e.dramAttached = true ∧ windowEndOf v bpp ≤ e.dramSize := by
  rw [windowReadable, windowEnd_computed, Bool.and_eq_true, decide_eq_true_eq]

section Formats

variable {v : Video} (hb : ¬ blackout v) (e : Environment)
include hb

theorem redrawn_of_not_blackout : redrawn e v = rendered e (computeDimensions v) := by
  rw [redrawn, if_neg (fun hc => hb ((blackoutCondition_computed_iff v).mp hc))]

theorem redrawn_rgba32 (h : v.ctrl.toNat % 4 = 3) :
    redrawn e v = if windowReadable e (computeDimensions v) 4
      then some (convert32 e (startRendering (computeDimensions v))) else none := by
  rw [redrawn_of_not_blackout hb, rendered, computeDimensions_ctrl, (pixelFormat_iff _).2.2.2.mpr h]

theorem redrawn_rgb16 (h : v.ctrl.toNat % 4 = 2) :
    redrawn e v = if windowReadable e (computeDimensions v) 2
      then some (convert16 e (startRendering (computeDimensions v))) else none := by
  rw [redrawn_of_not_blackout hb, rendered, computeDimensions_ctrl, (pixelFormat_iff _).2.2.1.mpr h]

theorem redrawn_other (h : v.ctrl.toNat % 4 = 1) :
    redrawn e v = some (startRendering (computeDimensions v)) := by
  rw [redrawn_of_not_blackout hb, rendered, computeDimensions_ctrl, (pixelFormat_iff _).2.1.mpr h]

end Formats

/-! ### Bytes of a raster -/

/-- Element `j` of block `i` of blocks of one length. -/
theorem getElem?_flatMap_range {α : Type} {f : Nat → List α} {n k i j : Nat}
    (hf : ∀ i, (f i).length = k) (hi : i < n) (hj : j < k) :
    ((List.range n).flatMap f)[i * k + j]? = (f i)[j]? := by
  induction n with
  | zero => exact absurd hi (Nat.not_lt_zero i)
  | succ n ih =>
    have hlen : ((List.range n).flatMap f).length = n * k := by simp [List.length_flatMap, hf]
    rw [List.range_succ, List.flatMap_append, List.flatMap_singleton]
    rcases Nat.lt_succ_iff_lt_or_eq.mp hi with hlt | rfl
    · have hin : i * k + j < n * k :=
        calc i * k + j < i * k + k := Nat.add_lt_add_left hj _
          _ = (i + 1) * k := (Nat.succ_mul i k).symm
          _ ≤ n * k := Nat.mul_le_mul_right k hlt
      rw [List.getElem?_append_left (hlen ▸ hin), ih hlt]
    · rw [List.getElem?_append_right (by rw [hlen]; exact Nat.le_add_right _ _), hlen,
        Nat.add_sub_cancel_left]

/-- Byte `j` of pixel (x, y) stands at `dst(x, y) + j` (R222). -/
theorem getElem?_raster {w h k x y j : Nat} {pixel : Nat → Nat → List Byte}
    (hp : ∀ x y, (pixel x y).length = k) (hx : x < w) (hy : y < h) (hj : j < k) :
    (raster w h pixel)[(y * w + x) * k + j]? = (pixel x y)[j]? := by
  have hrow : ∀ y, ((List.range w).flatMap fun x => pixel x y).length = w * k := fun y => by
    simp [List.length_flatMap, hp]
  have hcol : x * k + j < w * k :=
    calc x * k + j < x * k + k := Nat.add_lt_add_left hj _
      _ = (x + 1) * k := (Nat.succ_mul x k).symm
      _ ≤ w * k := Nat.mul_le_mul_right k hx
  have hsplit : (y * w + x) * k + j = y * (w * k) + (x * k + j) := by ring
  rw [raster, hsplit, getElem?_flatMap_range hrow hy hcol, getElem?_flatMap_range (fun x => hp x y) hx hj]

theorem getElem?_memRead (e : Environment) (a : Nat) {n k : Nat} (hk : k < n) :
    (memRead e a n)[k]? = some (Memory.read e.dram (a + k)) := by
  simp [memRead, hk]

/-- Settles O50: the branch copies four bytes for each pixel, row by row. -/
theorem redrawCopies32 : Obligations.RedrawCopies32 := by
  intro s hp hx hb hfmt hatt hsize
  have hread : windowReadable s.env (computeDimensions s.vi) 4 = true :=
    (windowReadable_computed _ _ _).mpr ⟨hatt, hsize⟩
  have hu : redrawn s.env s.vi = some (convert32 s.env (startRendering (computeDimensions s.vi))) := by
    rw [redrawn_rgba32 hb _ hfmt, if_pos hread]
  refine ⟨_, exec_viRedraw_some hp ((extentsReversed_eq_false_iff _).mpr hx) hu, scaledWidth_eq _,
    scaledHeight_eq _, ?_, fun x y k hxw hyh hk => ?_⟩
  · rw [← scaledWidth_eq, ← scaledHeight_eq]
    exact convert32_length _ _
  · rw [← scaledWidth_eq] at hxw ⊢
    rw [← scaledHeight_eq] at hyh
    exact (getElem?_raster (sourcePixel32_length _ _) hxw hyh hk).trans (getElem?_memRead _ _ hk)

/-! ### 16-bit pixels -/

/-- The expansion as arithmetic (R216). -/
theorem toNat_exp5 : ∀ c : BitVec 5, (exp5 c).toNat = 8 * c.toNat + c.toNat / 4 := by decide

/-- Settles O56: the arithmetic form gives the values and the order. -/
theorem expansionTable : Obligations.ExpansionTable := by
  refine ⟨by decide, by decide, by decide, fun c d => ⟨toNat_exp5 c, fun hlt => ?_⟩⟩
  rw [toNat_exp5, toNat_exp5]
  omega

/-- The big-endian pair as a number (R118). -/
theorem toNat_pixel16 (b0 b1 : Byte) : (pixel16 b0 b1).toNat = b0.toNat * 256 + b1.toNat := by
  show (b0 ++ b1).toNat = _
  rw [BitVec.toNat_append, ← Nat.shiftLeft_add_eq_or_of_lt b1.isLt, Nat.shiftLeft_eq]

/-- One channel of a pixel, expanded, by the number of the pixel. -/
theorem exp5_extractLsb' (pix : BitVec 16) (lsb : Nat) :
    exp5 (pix.extractLsb' lsb 5) =
      BitVec.ofNat 8 (8 * (pix.toNat / 2 ^ lsb % 32) + pix.toNat / 2 ^ lsb % 32 / 4) := by
  apply BitVec.eq_of_toNat_eq
  rw [toNat_exp5, BitVec.extractLsb'_toNat, Nat.shiftRight_eq_div_pow, BitVec.toNat_ofNat]
  generalize pix.toNat / 2 ^ lsb = q
  change 8 * (q % 32) + q % 32 / 4 = _
  omega

/-- Settles O51: each pixel is its 16-bit source pixel with the three channels expanded. -/
theorem redrawConverts16 : Obligations.RedrawConverts16 := by
  intro s hp hx hb hfmt hatt hsize
  have hread : windowReadable s.env (computeDimensions s.vi) 2 = true :=
    (windowReadable_computed _ _ _).mpr ⟨hatt, hsize⟩
  have hu : redrawn s.env s.vi = some (convert16 s.env (startRendering (computeDimensions s.vi))) := by
    rw [redrawn_rgb16 hb _ hfmt, if_pos hread]
  refine ⟨_, exec_viRedraw_some hp ((extentsReversed_eq_false_iff _).mpr hx) hu, scaledWidth_eq _,
    scaledHeight_eq _, ?_, fun x y hxw hyh pix hpix ch hch => ?_⟩
  · rw [← scaledWidth_eq, ← scaledHeight_eq]
    exact convert16_length _ _
  · rw [← scaledWidth_eq] at hxw ⊢
    rw [← scaledHeight_eq] at hyh
    rw [← toNat_pixel16] at hpix
    subst hpix hch
    have hbyte : ∀ k, k < 4 → _ := fun k hk =>
      getElem?_raster (sourcePixel16_length s.env (startRendering (computeDimensions s.vi))) hxw hyh hk
    exact ⟨(hbyte 0 (by decide)).trans (congrArg some (exp5_extractLsb' _ 11)),
      (hbyte 1 (by decide)).trans (congrArg some (exp5_extractLsb' _ 6)),
      (hbyte 2 (by decide)).trans (congrArg some (exp5_extractLsb' _ 1)), hbyte 3 (by decide)⟩

/-! ### Any other format -/

/-- The bytes of a resized buffer: the old ones, zeros beyond them (R214). -/
theorem getElem?_resizeBytes (bytes : List Byte) {n i : Nat} (hi : i < n) :
    (resizeBytes bytes n)[i]? = some (bytes.getD i 0) := by
  unfold resizeBytes
  split
  · have hlen : i < bytes.length := by omega
    simp [List.getD, hlen]
  · by_cases hlen : i < bytes.length
    · simp [List.getElem?_append, List.getD, hlen, hi]
    · have hlen' : bytes.length ≤ i := Nat.not_lt.mp hlen
      rw [List.getElem?_append_right (by simp [hlen']), List.getElem?_replicate,
        if_pos (by rw [List.length_take]; omega), List.getD_eq_default _ _ hlen']
      rfl

/-- Settles O52: the branch resizes the buffer and reads nothing. -/
theorem redrawKeepsOtherFormats : Obligations.RedrawKeepsOtherFormats := by
  intro s hp hx hb hfmt
  have hu : redrawn s.env s.vi = some (startRendering (computeDimensions s.vi)) :=
    redrawn_other hb _ hfmt
  refine ⟨_, exec_viRedraw_some hp ((extentsReversed_eq_false_iff _).mpr hx) hu, scaledWidth_eq _,
    scaledHeight_eq _, ?_, fun i hi => ?_⟩
  · rw [← scaledWidth_eq, ← scaledHeight_eq]
    exact startRendering_fb_length _
  · rw [← scaledWidth_eq, ← scaledHeight_eq] at hi
    exact getElem?_resizeBytes _ hi

/-! ### The source window -/

/-- A pixel of a `w` by `h` window ends before the window does (R222). -/
theorem pixel_le_window {w h x y : Nat} (hx : x < w) (hy : y < h) (origin stride bpp : Nat) :
    origin + (y * stride + x) * bpp + bpp ≤ origin + ((h - 1) * stride + w) * bpp := by
  have hrow : y * stride ≤ (h - 1) * stride := Nat.mul_le_mul_right _ (by omega)
  have hlast : (y * stride + x + 1) * bpp ≤ ((h - 1) * stride + w) * bpp :=
    Nat.mul_le_mul_right _ (by omega)
  rw [Nat.add_assoc, ← Nat.succ_mul]
  exact Nat.add_le_add_left hlast _

theorem dimensions_pos_of_not_blackout {v : Video} (h : ¬ blackout v) : 0 < widthOf v ∧ 0 < heightOf v :=
  ⟨Nat.pos_of_ne_zero fun hw => h (.inl hw), Nat.pos_of_ne_zero fun hh => h (.inr (.inl hh))⟩

/-- The window ends with its last pixel. -/
theorem pixelAt_last {v : Video} (h : ¬ blackout v) (bpp : Nat) :
    pixelAt v bpp (widthOf v - 1) (heightOf v - 1) + bpp = windowEndOf v bpp := by
  obtain ⟨hw, -⟩ := dimensions_pos_of_not_blackout h
  have hx : (heightOf v - 1) * v.viWidth.toNat + (widthOf v - 1) + 1 =
      (heightOf v - 1) * v.viWidth.toNat + widthOf v := by omega
  rw [pixelAt, windowEndOf, Nat.add_assoc, ← Nat.succ_mul, Nat.succ_eq_add_one, hx]

/-- A conversion is refused exactly where its window cannot be read. -/
theorem exec_viRedraw_outside_iff {s : State} (hp : s.host.porDone = true)
    (hx : extentsReversed s.vi = false) {bpp : Nat} {u : Video}
    (hr : redrawn s.env s.vi =
      if windowReadable s.env (computeDimensions s.vi) bpp then some u else none) :
    exec .viRedraw s = .refused .sourceOutsideDram ↔
      (s.env.dramAttached = false ∨ s.env.dramSize < windowEndOf s.vi bpp) := by
  have hwin := windowReadable_computed s.env s.vi bpp
  by_cases hread : windowReadable s.env (computeDimensions s.vi) bpp = true
  · rw [if_pos hread] at hr
    rw [exec_viRedraw_some hp hx hr]
    obtain ⟨hatt, hsize⟩ := hwin.mp hread
    simp [hatt, hsize]
  · rw [if_neg hread] at hr
    rw [hwin, not_and_or, Bool.not_eq_true, Nat.not_le] at hread
    exact iff_of_true (exec_viRedraw_none hp hx hr) hread

/-- Settles O53: in both formats the branch is the conversion behind the window test. -/
theorem redrawRefusesOutsideDram : Obligations.RedrawRefusesOutsideDram := by
  intro s bpp hp hx hb hfmt
  refine ⟨?_, pixelAt_last hb bpp, fun x y hxw hyh => pixel_le_window hxw hyh _ _ _⟩
  have hx' := (extentsReversed_eq_false_iff _).mpr hx
  rcases hfmt with ⟨hfmt, rfl⟩ | ⟨hfmt, rfl⟩
  · exact exec_viRedraw_outside_iff hp hx' (redrawn_rgba32 hb s.env hfmt)
  · exact exec_viRedraw_outside_iff hp hx' (redrawn_rgb16 hb s.env hfmt)

/-! ### A second redraw -/

theorem startRendering_again (v : Video) : startRendering (startRendering v) = startRendering v := by
  have hfb : resizeBytes (startRendering v).fb (v.outWidth * v.outHeight * 4) = (startRendering v).fb :=
    resizeBytes_same (startRendering_fb_length v)
  rw [startRendering, startRendering_outWidth, startRendering_outHeight, hfb]
  rfl

/-- Rendering what was rendered changes nothing: the size is the computed one already, and a conversion
writes every byte again. -/
theorem rendered_again {e : Environment} {v u : Video} (h : rendered e v = some u) :
    rendered e u = some u := by
  have hctrl : u.ctrl = v.ctrl := by rw [(rendered_frame h).1]
  unfold rendered at h ⊢
  rw [hctrl]
  split at h
  · split at h
    · cases h; exact if_pos ‹_›
    · cases h
  · split at h
    · cases h; exact if_pos ‹_›
    · cases h
  · cases h; exact congrArg some (startRendering_again v)
  · cases h; exact congrArg some (startRendering_again v)

/-- Redrawing what was redrawn changes nothing (R221). -/
theorem redrawn_again {e : Environment} {v u : Video} (h : redrawn e v = some u) :
    redrawn e u = some u := by
  have hdim : computeDimensions u = u := by rw [redrawn_frame h]; rfl
  have hcond : blackoutCondition u = blackoutCondition (computeDimensions v) := by
    rw [redrawn_frame h]; rfl
  rw [redrawn, hdim, hcond]
  rcases redrawn_cases h with ⟨hc, rfl⟩ | ⟨hc, hr⟩
  · rw [if_pos hc, blackOut_black (blackOut_blackedOut _)]
  · rw [if_neg (by simp [hc]), rendered_again hr]

/-- Settles O54: the registers, and so the extents, are the same at the second redraw. -/
theorem redrawTwiceIsRedrawOnce : Obligations.RedrawTwiceIsRedrawOnce := by
  intro s t h
  obtain ⟨hp, hx, u, hu, rfl⟩ := exec_viRedraw_next h
  have hx' : extentsReversed u = false := by rw [redrawn_frame hu]; exact hx
  exact exec_viRedraw_some (by exact hp) hx' (redrawn_again hu)

/-! ### What a redraw reads -/

theorem raster_congr {w h : Nat} {p q : Nat → Nat → List Byte}
    (hpq : ∀ x y, x < w → y < h → p x y = q x y) : raster w h p = raster w h q :=
  List.flatMap_congr fun y hy => List.flatMap_congr fun x hx =>
    hpq x y (List.mem_range.mp hx) (List.mem_range.mp hy)

theorem raster_computed_congr {v : Video} {p q : Nat → Nat → List Byte}
    (hpq : ∀ x y, x < widthOf v → y < heightOf v → p x y = q x y) :
    raster (computeDimensions v).outWidth (computeDimensions v).outHeight p =
      raster (computeDimensions v).outWidth (computeDimensions v).outHeight q := by
  rw [computeDimensions_eq]
  exact raster_congr hpq

/-- The DRAM of two environments with one configuration agrees on the source window of `bpp`-byte pixels. -/
structure WindowAgrees (v : Video) (bpp : Nat) (e e' : Environment) : Prop where
  attached : e.dramAttached = e'.dramAttached
  size : e.dramSize = e'.dramSize
  bytes : ∀ a, v.origin.toNat ≤ a → a < windowEndOf v bpp → Memory.read e.dram a = Memory.read e'.dram a

/-- A byte of a source pixel lies in the window. -/
theorem WindowAgrees.read_eq {v : Video} {bpp : Nat} {e e' : Environment} (h : WindowAgrees v bpp e e')
    {x y k : Nat} (hx : x < widthOf v) (hy : y < heightOf v) (hk : k < bpp) :
    Memory.read e.dram (pixelAt v bpp x y + k) = Memory.read e'.dram (pixelAt v bpp x y + k) := by
  have hend : pixelAt v bpp x y + bpp ≤ windowEndOf v bpp := pixel_le_window hx hy _ _ _
  have hstart : v.origin.toNat ≤ pixelAt v bpp x y := Nat.le_add_right _ _
  exact h.bytes _ (by omega) (by omega)

theorem WindowAgrees.windowReadable_eq {v : Video} {bpp : Nat} {e e' : Environment}
    (h : WindowAgrees v bpp e e') (u : Video) (n : Nat) : windowReadable e u n = windowReadable e' u n := by
  rw [windowReadable, h.attached, h.size]
  rfl

theorem convert32_congr {v : Video} {e e' : Environment} (h : WindowAgrees v 4 e e') :
    convert32 e (startRendering (computeDimensions v)) =
      convert32 e' (startRendering (computeDimensions v)) := by
  have hfb := raster_computed_congr (p := sourcePixel32 e (startRendering (computeDimensions v)))
    (q := sourcePixel32 e' (startRendering (computeDimensions v))) fun x y hx hy =>
    List.map_congr_left fun k hk => h.read_eq hx hy (List.mem_range.mp hk)
  simp only [convert32, startRendering_outWidth, startRendering_outHeight, hfb]

theorem convert16_congr {v : Video} {e e' : Environment} (h : WindowAgrees v 2 e e') :
    convert16 e (startRendering (computeDimensions v)) =
      convert16 e' (startRendering (computeDimensions v)) := by
  have hfb := raster_computed_congr (p := sourcePixel16 e (startRendering (computeDimensions v)))
    (q := sourcePixel16 e' (startRendering (computeDimensions v))) fun x y hx hy =>
    congrArg₂ (fun b0 b1 => rgbaOf16 (pixel16 b0 b1)) (h.read_eq hx hy (k := 0) (by decide))
      (h.read_eq hx hy (k := 1) (by decide))
  simp only [convert16, startRendering_outWidth, startRendering_outHeight, hfb]

/-- A redraw of the same registers over memories that agree on the window comes out the same (R215, R216,
R222): only the two conversions read, and only inside the window. -/
theorem redrawn_congr {v : Video} {e e' : Environment}
    (h : WindowAgrees v (if v.ctrl.toNat % 4 = 3 then 4 else 2) e e') : redrawn e v = redrawn e' v := by
  by_cases hb : blackout v
  · rw [redrawn_of_blackout hb, redrawn_of_blackout hb]
  have hfmt : v.ctrl.toNat % 4 = 1 ∨ v.ctrl.toNat % 4 = 2 ∨ v.ctrl.toNat % 4 = 3 := by
    have hne : v.ctrl.toNat % 4 ≠ 0 := fun h0 => hb (.inr (.inr (.inr h0)))
    omega
  rcases hfmt with hf | hf | hf
  · rw [redrawn_other hb _ hf, redrawn_other hb _ hf]
  · rw [if_neg (by omega)] at h
    rw [redrawn_rgb16 hb _ hf, redrawn_rgb16 hb _ hf, h.windowReadable_eq, convert16_congr h]
  · rw [if_pos hf] at h
    rw [redrawn_rgba32 hb _ hf, redrawn_rgba32 hb _ hf, h.windowReadable_eq, convert32_congr h]

/-- Settles O55: the extents are in the registers, and the rest of a redraw agrees. -/
theorem redrawReadsOnlyItsWindow : Obligations.RedrawReadsOnlyItsWindow := by
  intro s u t hvi hpor hatt hsize hbytes h
  obtain ⟨hp, hx, v, hv, rfl⟩ := exec_viRedraw_next h
  rw [redrawn_congr ⟨hatt, hsize, hbytes⟩, hvi] at hv
  exact ⟨_, exec_viRedraw_some (hpor ▸ hp) (hvi ▸ hx) hv, rfl⟩

end Sys2Proof.Proofs
end

section
/-! SUPPORT. The invariant of spec/10_state.md R45 and R62 over one step: each device's part is kept by each
kind of operation, DRAM's by the stores of the environment; and the parameters at their defaults. -/

namespace Sys2Proof.Proofs

open Sys2Proof.Machine Sys2Proof.Claims

/-! ### The timer -/

theorem and_mask_and_not {n : Nat} (v m : BitVec n) : v &&& m &&& ~~~m = 0#n := by
  rw [BitVec.and_assoc, BitVec.and_not_self]
  exact BitVec.and_zero

theorem timerInv_afterPor : TimerInv timerAfterPor :=
  ⟨by decide, by decide, by decide, by decide, by decide, by decide⟩

/-- `T.RESET` writes legal zeros and keeps IF (R130). -/
theorem timerInv_reset {t : Timer} (h : TimerInv t) : TimerInv (timerReset t) :=
  ⟨timerInv_afterPor.divIsHighByte, timerInv_afterPor.tacLegal, h.ifMasked, timerInv_afterPor.indexAtLeast,
    timerInv_afterPor.indexAtMost, fun _ => rfl⟩

/-- The timer request is a legal bit of IF (R141). -/
theorem ifMasked_raise {v : Byte} (h : v &&& ~~~Params.ifMask = 0#8) :
    (v ||| 0x04#8) &&& ~~~Params.ifMask = 0#8 := by
  have hreq : 0x04#8 &&& ~~~Params.ifMask = 0#8 := by decide
  have hdistrib : (v ||| 0x04#8) &&& ~~~Params.ifMask =
      v &&& ~~~Params.ifMask ||| 0x04#8 &&& ~~~Params.ifMask :=
    BitVec.eq_of_getLsbD_eq fun i _ => by
      simp only [BitVec.getLsbD_and, BitVec.getLsbD_or, Bool.and_or_distrib_right]
  rw [hdistrib, h, hreq, BitVec.or_zero]

/-- The index step 6 leaves is the sentinel, or it does not exceed the divisor (R163 (e)). -/
theorem index_range {idx : Int} {div c : Nat} (hidx : -1 ≤ idx) (hdiv : div ≤ 1024) {r : Int}
    (hr : r = if idx = -1 ∨ (div : Int) < idx + (c : Int) then -1 else idx + (c : Int)) :
    -1 ≤ r ∧ r ≤ 1024 + 255 := by
  split at hr <;> omega

/-- `T.UPDATE` leaves DIV the oscillator's high byte and `old_tac` the TAC, adds at most the request to IF,
and bounds the index. -/
theorem timerInv_update {t : Timer} (h : TimerInv t) (c : Cycles) (f : Byte) :
    TimerInv (timerUpdate tacGlitch false c f t).1 := by
  have hidx : -1 ≤ indexAfterReset t := by
    unfold indexAfterReset
    split
    · decide
    · exact h.indexAtLeast
  have hrange := index_range (c := c.toNat) hidx (tacDivisor_le t.tac) rfl
  rw [timerUpdate_eq]
  refine ⟨rfl, h.tacLegal, ?_, hrange.1, hrange.2, fun _ => rfl⟩
  dsimp only
  split
  · exact ifMasked_raise h.ifMasked
  · exact h.ifMasked

theorem toNat_tacStored_le (v : Byte) : (tacStored v).toNat ≤ 7 := by
  rw [tacStored, BitVec.toNat_and]
  exact Nat.and_le_right

/-- Every operation of the timer and of the bus cells keeps the timer's invariant: the writes of TAC and IF
store legal bits, and a write of TAC raises its signal. -/
theorem timerInv_timerAfter {t : Timer} (h : TimerInv t) (i : Instr) : TimerInv (timerAfter i t) := by
  cases i with
  | tReset => exact timerInv_reset h
  | tUpdate c f => exact timerInv_update h c f
  | busWr8Tac v =>
    exact ⟨h.divIsHighByte, toNat_tacStored_le v, h.ifMasked, h.indexAtLeast, h.indexAtMost,
      fun hc => Bool.noConfusion hc⟩
  | busWr8If v =>
    exact ⟨h.divIsHighByte, h.tacLegal, and_mask_and_not v _, h.indexAtLeast, h.indexAtMost,
      h.shadowCurrent⟩
  | _ =>
    exact ⟨h.divIsHighByte, h.tacLegal, h.ifMasked, h.indexAtLeast, h.indexAtMost, h.shadowCurrent⟩

/-! ### The video interface -/

theorem videoInv_afterPor : VideoInv videoAfterPor :=
  ⟨by decide, by decide, by decide, by decide, by decide, by decide, by decide⟩

/-- No operation but a redraw reaches the frame, and a write of CTRL stores legal bits. -/
theorem videoInv_videoAfter {v : Video} (h : VideoInv v) (attached : Bool) (i : Instr) :
    VideoInv (videoAfter attached i v) := by
  cases i with
  | viWr32Ctrl w =>
    exact ⟨and_mask_and_not w _, h.bufferSize, h.renderingSize, h.blackIsZero, h.widthRange, h.heightRange,
      h.bufferRange⟩
  | _ =>
    exact ⟨h.ctrlMasked, h.bufferSize, h.renderingSize, h.blackIsZero, h.widthRange, h.heightRange,
      h.bufferRange⟩

/-- The blacked-out branch keeps the buffer's size and leaves it zero (R62 (c), R213). -/
theorem videoInv_blackOut {v : Video} (h : VideoInv v) : VideoInv (blackOut (computeDimensions v)) := by
  rw [blackOut_eq, computeDimensions_eq]
  cases hb : v.blackedOut with
  | true =>
    exact ⟨h.ctrlMasked, h.bufferSize, fun hf => Bool.noConfusion hf, fun _ => h.blackIsZero hb,
      widthOf_le v, heightOf_le v, h.bufferRange⟩
  | false =>
    refine ⟨h.ctrlMasked, ?_, fun hf => Bool.noConfusion hf, fun _ b hmem => List.eq_of_mem_replicate hmem,
      widthOf_le v, heightOf_le v, ?_⟩
    · exact (List.length_replicate ..).trans h.bufferSize
    · exact (List.length_replicate ..).trans_le h.bufferRange

/-- The rendering branch gives the buffer the computed size, which is not zero (R62 (b), R214). -/
theorem videoInv_rendered {e : Environment} {v u : Video} (h : VideoInv v)
    (hc : blackoutCondition (computeDimensions v) = false)
    (hr : rendered e (computeDimensions v) = some u) :
    VideoInv u := by
  obtain ⟨hframe, hlen⟩ := rendered_frame hr
  have hb : ¬ blackout v := fun hb => by
    rw [(blackoutCondition_computed_iff v).mpr hb] at hc
    cases hc
  obtain ⟨hw, hh⟩ := dimensions_pos_of_not_blackout hb
  have hsize : widthOf v * heightOf v * 4 ≤ 4091 * 2043 * 4 :=
    Nat.mul_le_mul_right 4 (Nat.mul_le_mul (widthOf_le v) (heightOf_le v))
  rw [computeDimensions_eq] at hframe hlen
  rw [hframe]
  exact ⟨h.ctrlMasked, hlen, fun _ => ⟨rfl, rfl, hw.ne', hh.ne'⟩, fun hf => Bool.noConfusion hf,
    widthOf_le v, heightOf_le v, hlen.trans_le hsize⟩

theorem videoInv_redrawn {e : Environment} {v u : Video} (h : VideoInv v) (hu : redrawn e v = some u) :
    VideoInv u := by
  rcases redrawn_cases hu with ⟨-, rfl⟩ | ⟨hc, hr⟩
  · exact videoInv_blackOut h
  · exact videoInv_rendered h hc hr

/-! ### One step -/

/-- Every operation keeps the invariant, by its device. -/
theorem inv_exec {i : Instr} {s t : State} (h : Inv s) (hex : exec i s = .next t) : Inv t := by
  by_cases hi : i = .por
  · subst hi
    rw [exec_por_next hex]
    exact ⟨timerInv_afterPor, videoInv_afterPor, h.environment⟩
  rcases isTimerOp_or_isVideoOp hi with ht | hv
  · rw [exec_timerOp_next ht hex]
    exact ⟨timerInv_timerAfter h.timer i, h.video, h.environment⟩
  by_cases hr : i = .viRedraw
  · subst hr
    obtain ⟨-, -, u, hu, rfl⟩ := exec_viRedraw_next hex
    exact ⟨h.timer, videoInv_redrawn h.video hu, h.environment⟩
  · obtain ⟨r, rfl⟩ := exec_videoOp_next hv hr hex
    exact ⟨h.timer, videoInv_videoAfter h.video _ i, h.environment⟩

/-- A store of the environment keeps DRAM canonical and lists no offset that does not exist. -/
theorem environmentInv_store {s t : State} {a : Nat} {b : Byte} (h : EnvironmentInv s.env)
    (hs : environmentStore s a b = .next t) : EnvironmentInv t.env := by
  obtain ⟨hlt, rfl⟩ := environmentStore_next hs
  refine ⟨write_wf h.canonical a b, fun c hc => ?_⟩
  rcases mem_write hc with heq | hmem
  · exact heq ▸ hlt
  · exact h.within c hmem

/-- Settles O58: a step is nothing, an operation in the state with its event taken, or a store to DRAM; each
keeps the parts of the invariant it touches. -/
theorem stepKeepsTheInvariant : Obligations.StepKeepsTheInvariant := by
  intro s t h hstep
  have htaken : Inv s.taken := ⟨h.timer, h.video, h.environment⟩
  rcases takeTurn_next hstep with ⟨-, rfl⟩ | ⟨od, i, -, -, hex⟩ | ⟨a, b, -, hs⟩
  · exact h
  · exact inv_exec htaken hex
  · have henv := environmentInv_store htaken.environment hs
    obtain ⟨-, rfl⟩ := environmentStore_next hs
    exact ⟨h.timer, h.video, henv⟩

/-- Settles O57: both devices are as `POR` leaves them, and DRAM lists nothing. -/
theorem resetMeetsTheInvariant : Obligations.ResetMeetsTheInvariant :=
  ⟨timerInv_afterPor, videoInv_afterPor, reset_dram_wf, fun _ hc => by cases hc⟩

/-! ### The parameters -/

/-- Settles O59: every parameter evaluates to the default of its table. -/
theorem parametersAtTheirDefaults : Obligations.ParametersAtTheirDefaults := by
  unfold Obligations.ParametersAtTheirDefaults
  decide

end Sys2Proof.Proofs
end
